-- ==== Sys2Proof/Word.lean ====
section
/-! DEFINITION. The words of the CHIP-8 core: bytes, 16-bit words, the 12-bit address field, register numbers, row counts
(00_scope R10; 10_state R20, R24, R25; 30_encoding R90). Every value is unsigned (R10, R14). -/

namespace Sys2Proof

/-- A `u8`: a register, a timer, a memory byte (R10). -/
abbrev Byte := BitVec 8

/-- A `u16`: an opcode, PC, I, a return address (R10). -/
abbrev Word := BitVec 16

/-- The address field `nnn` of an opcode, a u12 (30_encoding R90, R92). -/
abbrev Addr12 := BitVec 12

/-- A register number, the 4-bit field `x` or `y`: every value 0 to 15 is legal (30_encoding R92; 10_state R20). -/
abbrev Reg := Fin 16

/-- A count of sprite rows, the 4-bit field `n` in [0, 15] (30_encoding R92). -/
abbrev RowCount := Fin 16

/-- The flag register VF is `V[15]` (00_scope R11; 10_state R23). -/
abbrev vF : Reg := 15

/-- `zext_16` of a byte (00_scope R10). -/
def zextByte (b : Byte) : Word := b.setWidth 16

/-- `zext_16` of a 12-bit address (00_scope R10; 30_encoding R92). -/
def zextAddr (a : Addr12) : Word := a.setWidth 16

/-- A truth value written as a flag is 0x00 or 0x01 (10_state R23; the spec's decision D38). -/
def flagByte (f : Bool) : Byte := if f then 1 else 0

end Sys2Proof
end

