-- ==== Sys2Proof/Config.lean ====
section
/-! DEFINITION. What the spec leaves to an implementation: the named parameters of 00_scope R8 with their defaults, the host's
instruction budget (60_exceptions R266), and the free value of the model, the oracle RAND (00_scope R8, R12; log 2).
FONT stands in Machine/Font.lean. -/

namespace Sys2Proof

/-- `STACK_CAPACITY`: the most return addresses the stack holds (R8; 10_state R28; D7). -/
inductive StackCapacity where
  | bounded (n : Nat)
  | unbounded
  deriving DecidableEq, Repr

/-- `SHIFT_SOURCE`: the register that `8xy6` and `8xyE` shift (R8; 41_alu R159, R161; D9). -/
inductive ShiftSource where
  | vx
  | vy
  deriving DecidableEq, Repr

/-- `JUMP_OFFSET_REG`: the register that `Bnnn` adds to nnn (R8; 40_control_flow R131; D10). -/
inductive JumpOffsetReg where
  | v0
  | vx
  deriving DecidableEq, Repr

/-- `VF_WRITE_ORDER`: which write wins when a flag-writing `8xy_` has VF as its destination (R8; 41_alu R150; D8). -/
inductive VfWriteOrder where
  | flagLast
  | resultLast
  deriving DecidableEq, Repr

/-- `ODD_PC_POLICY`: what a fetch from an odd PC does (R8; 20_memory R68; D6). -/
inductive OddPcPolicy where
  | fault
  | fetch
  deriving DecidableEq, Repr

/-- The quirk parameters of R8, fixed at reset (70_reset R281). DESIGN CHOICE, safe: the state carries them (log 1). -/
structure Params where
  stackCapacity : StackCapacity
  shiftSource : ShiftSource
  jumpOffsetReg : JumpOffsetReg
  vfWriteOrder : VfWriteOrder
  oddPcPolicy : OddPcPolicy
  deriving DecidableEq, Repr

/-- The value R8 gives the hardware for each parameter. -/
def Params.default : Params where
  stackCapacity := .bounded 16
  shiftSource := .vx
  jumpOffsetReg := .v0
  vfWriteOrder := .flagLast
  oddPcPolicy := .fault

/-- `IPF`, `IPF_MIN` and `IPF_MAX`: the host's instructions per frame and its clamp range, all OPEN (R8; 60_exceptions R266). -/
structure FrameBudget where
  ipfMin : Nat
  ipf : Nat
  ipfMax : Nat
  deriving DecidableEq, Repr

/-- FREE VALUE. The oracle `RAND`: the byte that draw number `k` answers, about which nothing is known (R8, R12; D24; log 2). -/
opaque Config.rand : Nat → Byte

end Sys2Proof
end

