-- ==== Sys2Proof/WellFormed.lean ====
section
/-! DEFINITION. What makes a raw value meaningful. An `Instr` needs no check, since its types are the field widths (log 11); the raw
things that do are an opcode word (30_encoding R95: the secondary field of six families), the parameters and the instruction
budget (00_scope R8). R95 is written here as its own list, apart from the decoder, so that the two can be held against each other. -/

namespace Sys2Proof

/-- Family 0 is decided by the whole opcode: only 0x00E0 and 0x00EE are instructions (R95). -/
def wellFormedFamily0 (op : Word) : Bool := op == 0x00E0#16 || op == 0x00EE#16

/-- Families 5 and 9 require n = 0 (R95). -/
def wellFormedFamily5or9 (op : Word) : Bool := op.toNat % 16 == 0

/-- Family 8 is decided by n, from the set 0, 1, 2, 3, 4, 5, 6, 7, E (R95). -/
def wellFormedFamily8 (op : Word) : Bool := [0x0, 0x1, 0x2, 0x3, 0x4, 0x5, 0x6, 0x7, 0xE].elem (op.toNat % 16)

/-- Family E is decided by nn, from the set 9E, A1 (R95). -/
def wellFormedFamilyE (op : Word) : Bool := [0x9E, 0xA1].elem (op.toNat % 256)

/-- Family F is decided by nn, from the set 07, 0A, 15, 18, 1E, 29, 33, 55, 65 (R95). -/
def wellFormedFamilyF (op : Word) : Bool :=
  [0x07, 0x0A, 0x15, 0x18, 0x1E, 0x29, 0x33, 0x55, 0x65].elem (op.toNat % 256)

/-- An opcode word that spells an instruction: the families with a secondary field are checked, in the ten others every opcode
is an instruction (R95). -/
def wellFormedWord (op : Word) : Bool :=
  match op.toNat / 0x1000 with
  | 0x0 => wellFormedFamily0 op
  | 0x5 => wellFormedFamily5or9 op
  | 0x8 => wellFormedFamily8 op
  | 0x9 => wellFormedFamily5or9 op
  | 0xE => wellFormedFamilyE op
  | 0xF => wellFormedFamilyF op
  | _ => true

/-- `STACK_CAPACITY` is a natural number of at least 1, or unbounded (R8). -/
def Params.wellFormed (p : Params) : Bool :=
  match p.stackCapacity with
  | .bounded n => 1 ≤ n
  | .unbounded => true

/-- `IPF_MIN <= IPF <= IPF_MAX` (R8). -/
def FrameBudget.wellFormed (b : FrameBudget) : Bool := b.ipfMin ≤ b.ipf && b.ipf ≤ b.ipfMax

end Sys2Proof
end

