-- ==== Sys2Proof/Decode.lean ====
section
/-! DEFINITION. The decoder (30_encoding R90 to R98), total on words and on bytes, which rejects by name; the opcode map R93 as a
table of rows; the encoder, from the same map; and the word the host asks about. -/

namespace Sys2Proof

/-- `op[hi:lo]`, the unsigned value of bits hi down to lo inclusive (00_scope R10). -/
def slice (op : Word) (hi lo : Nat) : Nat := op.toNat / 2 ^ lo % 2 ^ (hi + 1 - lo)

/-- The family, op[15:12] (R90). -/
def fieldInst (op : Word) : Nat := slice op 15 12

/-- The register field x, op[11:8] (R90). -/
def fieldX (op : Word) : Reg := Fin.ofNat 16 (slice op 11 8)

/-- The register field y, op[7:4] (R90). -/
def fieldY (op : Word) : Reg := Fin.ofNat 16 (slice op 7 4)

/-- The 4-bit field n, op[3:0] (R90). -/
def fieldN (op : Word) : RowCount := Fin.ofNat 16 (slice op 3 0)

/-- The 8-bit field nn, op[7:0] (R90). -/
def fieldNN (op : Word) : Byte := BitVec.ofNat 8 (slice op 7 0)

/-- The 12-bit field nnn, op[11:0] (R90). -/
def fieldNNN (op : Word) : Addr12 := BitVec.ofNat 12 (slice op 11 0)

/-- Family 8 by its selector n (R93, R95). -/
def decodeFamily8 (op : Word) : Option Instr :=
  match slice op 3 0 with
  | 0x0 => some (.ldReg (fieldX op) (fieldY op))
  | 0x1 => some (.orReg (fieldX op) (fieldY op))
  | 0x2 => some (.andReg (fieldX op) (fieldY op))
  | 0x3 => some (.xorReg (fieldX op) (fieldY op))
  | 0x4 => some (.addReg (fieldX op) (fieldY op))
  | 0x5 => some (.sub (fieldX op) (fieldY op))
  | 0x6 => some (.shr (fieldX op) (fieldY op))
  | 0x7 => some (.subn (fieldX op) (fieldY op))
  | 0xE => some (.shl (fieldX op) (fieldY op))
  | _ => none

/-- Family E by its selector nn (R93, R95). -/
def decodeFamilyE (op : Word) : Option Instr :=
  match slice op 7 0 with
  | 0x9E => some (.skp (fieldX op))
  | 0xA1 => some (.sknp (fieldX op))
  | _ => none

/-- Family F by its selector nn (R93, R95). -/
def decodeFamilyF (op : Word) : Option Instr :=
  match slice op 7 0 with
  | 0x07 => some (.ldVxDt (fieldX op))
  | 0x0A => some (.ldVxK (fieldX op))
  | 0x15 => some (.ldDtVx (fieldX op))
  | 0x18 => some (.ldStVx (fieldX op))
  | 0x1E => some (.addI (fieldX op))
  | 0x29 => some (.ldF (fieldX op))
  | 0x33 => some (.ldB (fieldX op))
  | 0x55 => some (.store (fieldX op))
  | 0x65 => some (.load (fieldX op))
  | _ => none

/-- `Decode(op)` (R94, R95): the instruction of the row that the opcode matches, or `none` for `Unknown(op)`. -/
def decodeWord (op : Word) : Option Instr :=
  match fieldInst op with
  | 0x0 => if op = 0x00E0#16 then some .cls else if op = 0x00EE#16 then some .ret else none
  | 0x1 => some (.jp (fieldNNN op))
  | 0x2 => some (.call (fieldNNN op))
  | 0x3 => some (.seImm (fieldX op) (fieldNN op))
  | 0x4 => some (.sneImm (fieldX op) (fieldNN op))
  | 0x5 => if slice op 3 0 = 0 then some (.seReg (fieldX op) (fieldY op)) else none
  | 0x6 => some (.ldImm (fieldX op) (fieldNN op))
  | 0x7 => some (.addImm (fieldX op) (fieldNN op))
  | 0x8 => decodeFamily8 op
  | 0x9 => if slice op 3 0 = 0 then some (.sneReg (fieldX op) (fieldY op)) else none
  | 0xA => some (.ldI (fieldNNN op))
  | 0xB => some (.jpV0 (fieldNNN op))
  | 0xC => some (.rnd (fieldX op) (fieldNN op))
  | 0xD => some (.drw (fieldX op) (fieldY op) (fieldN op))
  | 0xE => decodeFamilyE op
  | 0xF => decodeFamilyF op
  | _ => none

/-- Fetch is big-endian: the first byte holds opcode bits [15:8] (20_memory R67). -/
def wordOfBytes (hi lo : Byte) : Word := (zextByte hi <<< 8) ||| zextByte lo

/-- The two bytes of an opcode, in the order memory holds them (20_memory R67). -/
def bytesOfWord (op : Word) : List Byte := [BitVec.ofNat 8 (slice op 15 8), BitVec.ofNat 8 (slice op 7 0)]

/-- Why the decoder rejects bytes. -/
inductive DecodeError where
  /-- fewer than the 2 bytes every instruction has (R91) -/
  | truncated
  /-- an opcode outside the map, `Unknown(op)` (R94, R96) -/
  | unknownOpcode (op : Word)
  deriving DecidableEq, Repr

/-- The decoder on bytes: it always consumes 2 bytes (R91) and hands back the rest. -/
def decode : List Byte → Except DecodeError (Instr × List Byte)
  | hi :: lo :: rest =>
    match decodeWord (wordOfBytes hi lo) with
    | some i => .ok (i, rest)
    | none => .error (.unknownOpcode (wordOfBytes hi lo))
  | _ => .error .truncated

/-! ## The opcode map as a table -/

/-- One row of R93: an opcode spells its instruction when `op & mask = match`. -/
structure OpcodeRow where
  bits : Word
  mask : Word
  deriving DecidableEq, Repr

/-- `op & mask = match` (R93). -/
def OpcodeRow.accepts (r : OpcodeRow) (op : Word) : Bool := op &&& r.mask == r.bits

/-- The row of R93 that an instruction belongs to. -/
def Instr.row : Instr → OpcodeRow
  | .cls => ⟨0x00E0, 0xFFFF⟩
  | .ret => ⟨0x00EE, 0xFFFF⟩
  | .jp _ => ⟨0x1000, 0xF000⟩
  | .call _ => ⟨0x2000, 0xF000⟩
  | .seImm _ _ => ⟨0x3000, 0xF000⟩
  | .sneImm _ _ => ⟨0x4000, 0xF000⟩
  | .seReg _ _ => ⟨0x5000, 0xF00F⟩
  | .ldImm _ _ => ⟨0x6000, 0xF000⟩
  | .addImm _ _ => ⟨0x7000, 0xF000⟩
  | .ldReg _ _ => ⟨0x8000, 0xF00F⟩
  | .orReg _ _ => ⟨0x8001, 0xF00F⟩
  | .andReg _ _ => ⟨0x8002, 0xF00F⟩
  | .xorReg _ _ => ⟨0x8003, 0xF00F⟩
  | .addReg _ _ => ⟨0x8004, 0xF00F⟩
  | .sub _ _ => ⟨0x8005, 0xF00F⟩
  | .shr _ _ => ⟨0x8006, 0xF00F⟩
  | .subn _ _ => ⟨0x8007, 0xF00F⟩
  | .shl _ _ => ⟨0x800E, 0xF00F⟩
  | .sneReg _ _ => ⟨0x9000, 0xF00F⟩
  | .ldI _ => ⟨0xA000, 0xF000⟩
  | .jpV0 _ => ⟨0xB000, 0xF000⟩
  | .rnd _ _ => ⟨0xC000, 0xF000⟩
  | .drw _ _ _ => ⟨0xD000, 0xF000⟩
  | .skp _ => ⟨0xE09E, 0xF0FF⟩
  | .sknp _ => ⟨0xE0A1, 0xF0FF⟩
  | .ldVxDt _ => ⟨0xF007, 0xF0FF⟩
  | .ldVxK _ => ⟨0xF00A, 0xF0FF⟩
  | .ldDtVx _ => ⟨0xF015, 0xF0FF⟩
  | .ldStVx _ => ⟨0xF018, 0xF0FF⟩
  | .addI _ => ⟨0xF01E, 0xF0FF⟩
  | .ldF _ => ⟨0xF029, 0xF0FF⟩
  | .ldB _ => ⟨0xF033, 0xF0FF⟩
  | .store _ => ⟨0xF055, 0xF0FF⟩
  | .load _ => ⟨0xF065, 0xF0FF⟩

/-- The 34 rows of R93, in its order (one instruction of each row names it). -/
def opcodeRows : List OpcodeRow :=
  [.cls, .ret, .jp 0, .call 0, .seImm 0 0, .sneImm 0 0, .seReg 0 0, .ldImm 0 0, .addImm 0 0, .ldReg 0 0, .orReg 0 0,
    .andReg 0 0, .xorReg 0 0, .addReg 0 0, .sub 0 0, .shr 0 0, .subn 0 0].map Instr.row ++
  [.shl 0 0, .sneReg 0 0, .ldI 0, .jpV0 0, .rnd 0 0, .drw 0 0 0, .skp 0, .sknp 0, .ldVxDt 0, .ldVxK 0, .ldDtVx 0, .ldStVx 0,
    .addI 0, .ldF 0, .ldB 0, .store 0, .load 0].map Instr.row

/-! ## The encoder -/

/-- An opcode with the fields x, y and n in their places (R90). -/
def wordXYN (base : Nat) (x y : Reg) (n : Nat) : Word := BitVec.ofNat 16 (base + x.val * 0x100 + y.val * 0x10 + n)

/-- An opcode with the fields x and nn in their places (R90). -/
def wordXNN (base : Nat) (x : Reg) (nn : Nat) : Word := BitVec.ofNat 16 (base + x.val * 0x100 + nn)

/-- An opcode with the field nnn in its place (R90). -/
def wordNNN (base : Nat) (nnn : Addr12) : Word := BitVec.ofNat 16 (base + nnn.toNat)

/-- The opcode of an instruction (R93). Every bit is fixed by the row or belongs to a field (R100), so it is the one opcode
that spells the instruction; a fault record takes the opcode from here. -/
def encode : Instr → Word
  | .cls => 0x00E0
  | .ret => 0x00EE
  | .jp nnn => wordNNN 0x1000 nnn
  | .call nnn => wordNNN 0x2000 nnn
  | .seImm x nn => wordXNN 0x3000 x nn.toNat
  | .sneImm x nn => wordXNN 0x4000 x nn.toNat
  | .seReg x y => wordXYN 0x5000 x y 0x0
  | .ldImm x nn => wordXNN 0x6000 x nn.toNat
  | .addImm x nn => wordXNN 0x7000 x nn.toNat
  | .ldReg x y => wordXYN 0x8000 x y 0x0
  | .orReg x y => wordXYN 0x8000 x y 0x1
  | .andReg x y => wordXYN 0x8000 x y 0x2
  | .xorReg x y => wordXYN 0x8000 x y 0x3
  | .addReg x y => wordXYN 0x8000 x y 0x4
  | .sub x y => wordXYN 0x8000 x y 0x5
  | .shr x y => wordXYN 0x8000 x y 0x6
  | .subn x y => wordXYN 0x8000 x y 0x7
  | .shl x y => wordXYN 0x8000 x y 0xE
  | .sneReg x y => wordXYN 0x9000 x y 0x0
  | .ldI nnn => wordNNN 0xA000 nnn
  | .jpV0 nnn => wordNNN 0xB000 nnn
  | .rnd x nn => wordXNN 0xC000 x nn.toNat
  | .drw x y n => wordXYN 0xD000 x y n.val
  | .skp x => wordXNN 0xE000 x 0x9E
  | .sknp x => wordXNN 0xE000 x 0xA1
  | .ldVxDt x => wordXNN 0xF000 x 0x07
  | .ldVxK x => wordXNN 0xF000 x 0x0A
  | .ldDtVx x => wordXNN 0xF000 x 0x15
  | .ldStVx x => wordXNN 0xF000 x 0x18
  | .addI x => wordXNN 0xF000 x 0x1E
  | .ldF x => wordXNN 0xF000 x 0x29
  | .ldB x => wordXNN 0xF000 x 0x33
  | .store x => wordXNN 0xF000 x 0x55
  | .load x => wordXNN 0xF000 x 0x65

/-! ## The word the host asks about -/

/-- The opcode whose lowest `nbits` bits are those of `w`, the bits above them 0 (an opcode is one 16-bit word, R91). -/
def tableWord (nbits w : Nat) : Word := BitVec.ofNat 16 (w % 2 ^ nbits)

/-- The instruction the decoder reads from that opcode, its bytes laid out as memory holds them (20_memory R67). -/
def decodeTableWord (nbits w : Nat) : Option Instr :=
  match decode (bytesOfWord (tableWord nbits w)) with
  | .ok (i, _) => some i
  | .error _ => none

end Sys2Proof
end

