-- ==== Sys2Proof/Machine/Font.lean ====
section
/-! DEFINITION. The parameter FONT (00_scope R8; 20_memory R62): 80 bytes, five for each hexadecimal digit. The default table is
PRESUMED, unsafe: the spec takes it from general knowledge (D4; log 3), so a claim that reads a font byte must name FONT. -/

namespace Sys2Proof.Machine

/-- The type of `FONT`: 80 bytes (R62). -/
abbrev Font := Vector Byte 80

/-- The glyphs of 0 to 7, at 0x000 to 0x027 (R62). -/
def fontLow : List Byte :=
  [0xF0, 0x90, 0x90, 0x90, 0xF0] ++ [0x20, 0x60, 0x20, 0x20, 0x70] ++
  [0xF0, 0x10, 0xF0, 0x80, 0xF0] ++ [0xF0, 0x10, 0xF0, 0x10, 0xF0] ++
  [0x90, 0x90, 0xF0, 0x10, 0x10] ++ [0xF0, 0x80, 0xF0, 0x10, 0xF0] ++
  [0xF0, 0x80, 0xF0, 0x90, 0xF0] ++ [0xF0, 0x10, 0x20, 0x40, 0x40]

/-- The glyphs of 8 to F, at 0x028 to 0x04F (R62). -/
def fontHigh : List Byte :=
  [0xF0, 0x90, 0xF0, 0x90, 0xF0] ++ [0xF0, 0x90, 0xF0, 0x10, 0xF0] ++
  [0xF0, 0x90, 0xF0, 0x90, 0x90] ++ [0xE0, 0x90, 0xE0, 0x90, 0xE0] ++
  [0xF0, 0x80, 0x80, 0x80, 0xF0] ++ [0xE0, 0x90, 0x90, 0x90, 0xE0] ++
  [0xF0, 0x80, 0xF0, 0x80, 0xF0] ++ [0xF0, 0x80, 0xF0, 0x80, 0x80]

/-- The default value of `FONT` (R62). -/
def defaultFont : Font := ⟨⟨fontLow ++ fontHigh⟩, by decide⟩

end Sys2Proof.Machine
end

