-- ==== Sys2Proof/Machine/State.lean ====
section
/-! DEFINITION. The state of the core as plain data (10_state R20 to R39), the ways a step can stop, and the machine right after
reset (R39; 70_reset R280). -/

namespace Sys2Proof.Machine

/-- M: the bytes that differ from their reset content, as (address, byte) pairs with rising addresses (10_state R33; log 7).
The canonical form is `Memory.wf`, the byte at an address `Memory.read`, both in Machine/Ops.lean. -/
abbrev Memory := List Host.Cell

/-- FB: 64 columns of 32 pixels, `fb[px][py]` (10_state R32). -/
abbrev Framebuffer := Vector (Vector Bool 32) 64

/-- K: one Boolean for each of the 16 keys, true when pressed (10_state R31). -/
abbrev KeySnapshot := Vector Bool 16

/-- The five faults of the core (60_exceptions R240). -/
inductive FaultCode where
  /-- `00EE` with an empty stack (R241) -/
  | stackUnderflow
  /-- `2nnn` with a full stack (R242) -/
  | stackOverflow
  /-- an access above 0xFFF (R243) -/
  | memoryOutOfBounds
  /-- `Ex9E` or `ExA1` with Vx above 15 (R244) -/
  | keyIndexOutOfRange
  /-- a fetch from an odd PC (R245) -/
  | pcMisaligned
  deriving DecidableEq, Repr

/-- The `info` of a fault record: an address (an unbounded integer, 20_memory R69), a key index, or none (R246). -/
inductive FaultInfo where
  | nothing
  | address (a : Nat)
  | key (k : Byte)
  deriving DecidableEq, Repr

/-- The record that taking a fault saves, `{code, pc, opcode, info}` (R246). -/
structure FaultRecord where
  code : FaultCode
  pc : Word
  opcode : Option Word
  info : FaultInfo
  deriving DecidableEq, Repr

/-- The one kind of event (60_exceptions R250). -/
inductive EventKind where
  | unknownOpcode
  deriving DecidableEq, Repr

/-- An event record `{kind, opcode, pc}` (R250). -/
structure Event where
  kind : EventKind
  opcode : Word
  pc : Word
  deriving DecidableEq, Repr

/-- Everything the core holds. -/
structure State where
  /-- V0 to VF (R20) -/
  v : Vector Byte 16
  /-- the index register I (R24) -/
  i : Word
  /-- the program counter PC (R25) -/
  pc : Word
  /-- the call stack S, oldest entry first (R27) -/
  stack : List Word
  /-- the delay timer DT (R29) -/
  dt : Byte
  /-- the sound timer ST (R30) -/
  st : Byte
  /-- the key snapshot K (R31) -/
  keys : KeySnapshot
  /-- the framebuffer FB (R32) -/
  fb : Framebuffer
  /-- the memory M (R33) -/
  mem : Memory
  /-- the fault status (R34) -/
  fault : Option FaultRecord
  /-- the event log, oldest first (R35) -/
  events : List Event
  /-- the model's own: the parameters of 00_scope R8, which nothing writes after reset (log 1) -/
  params : Params
  /-- the model's own: how many bytes RAND has been asked for (log 2) -/
  draws : Nat
  deriving DecidableEq, Repr

/-- Why the machine takes no step. -/
inductive Fault where
  /-- Raised by `step` alone, when a fault was taken earlier: the core is halted and has no step (60_exceptions R248). Safe: the
  spec gives no step there. The five faults of R240 are next states that hold the record; they are no `Fault`. -/
  | halted (r : FaultRecord)
  deriving DecidableEq, Repr

/-- Why an instruction has no meaning here. -/
inductive Refusal where
  /-- Raised by an arm of `exec` for an instruction without a meaning; no arm raises it now. Safe: it claims no next state. -/
  | notModelled (mnemonic : String)
  deriving DecidableEq, Repr

/-- What one instruction answers. -/
abbrev StepResult := Host.Outcome State Fault Refusal

/-- The core right after reset (R39; 70_reset R280), with the default of every parameter (00_scope R8). The spec states every value
but `draws`, which is the model's (DESIGN CHOICE, log 2). Memory lists nothing: it reads as its reset content. -/
def State.reset : State where
  v := Vector.replicate 16 0
  i := 0
  pc := 0x200
  stack := []
  dt := 0
  st := 0
  keys := Vector.replicate 16 false
  fb := Vector.replicate 64 (Vector.replicate 32 false)
  mem := []
  fault := none
  events := []
  params := Params.default
  draws := 0

end Sys2Proof.Machine
end

