-- ==== Sys2Proof/Machine/Ops.lean ====
section
/-! DEFINITION. The named operations over the state: memory (20_memory R60 to R76), registers, PC, the call stack (10_state R27), the
fetch (40_control_flow R120, R121), taking a fault (60_exceptions R246, R247) and emitting an event (R250). There is no return
from a fault (R249): nothing but reset clears the record. -/

namespace Sys2Proof.Machine

/-! ## Memory -/

/-- What an address that memory does not list reads as: its content after reset, the font and then zeros (20_memory R61). -/
def Memory.resetByte (a : Nat) : Byte := defaultFont.toList.getD a 0

/-- M[a] (20_memory R71). -/
def Memory.read : Memory → Nat → Byte
  | [], a => resetByte a
  | (b, v) :: rest, a => if a = b then v else read rest a

/-- Memory without an entry for address `a`. -/
def Memory.without (m : Memory) (a : Nat) : Memory := m.filter (fun c => c.1 != a)

/-- Memory with an entry put in its place by address. -/
def Memory.withEntry : Memory → Nat → Byte → Memory
  | [], a, v => [(a, v)]
  | c :: rest, a, v => if a < c.1 then (a, v) :: c :: rest else c :: withEntry rest a v

/-- Memory with `M[a] <- v`, in canonical form again: the reset content of an address is not listed (log 7). -/
def Memory.put (m : Memory) (a : Nat) (v : Byte) : Memory :=
  if v = resetByte a then m.without a else (m.without a).withEntry a v

/-- The canonical form: addresses strictly rising, none above 0xFFF, no entry equal to what an unlisted address reads as. -/
abbrev Memory.wf (m : Memory) : Prop :=
  m.Pairwise (fun c d => c.1 < d.1) ∧ ∀ c ∈ m, c.1 ≤ 0xFFF ∧ c.2 ≠ Memory.resetByte c.1

/-- `MemRead(a, 1)`: the byte, or the address that is out of bounds (20_memory R63). -/
def memRead (m : Memory) (a : Nat) : Except Nat Byte := if a > 0xFFF then .error a else .ok (m.read a)

/-- `MemWrite(a, 1, v)`: the new memory, or the address that is out of bounds (20_memory R64). -/
def memWrite (m : Memory) (a : Nat) (v : Byte) : Except Nat Memory := if a > 0xFFF then .error a else .ok (m.put a v)

/-- The `n` bytes from address `a` upward, or the first address out of bounds (20_memory R66, R69, R70). -/
def readBlock (m : Memory) : (a n : Nat) → Except Nat (List Byte)
  | _, 0 => .ok []
  | a, n + 1 =>
    match memRead m a with
    | .error e => .error e
    | .ok b =>
      match readBlock m (a + 1) n with
      | .error e => .error e
      | .ok bs => .ok (b :: bs)

/-- Memory with the bytes stored from address `a` upward, or the first address out of bounds; on an error nothing is stored
(20_memory R66, R69, R70). -/
def writeBlock (m : Memory) (a : Nat) : List Byte → Except Nat Memory
  | [] => .ok m
  | b :: bs =>
    match memWrite m a b with
    | .error e => .error e
    | .ok m' => writeBlock m' (a + 1) bs

/-! ## Registers, PC and the other fields -/

/-- `V[r]` (00_scope R11). -/
def State.reg (s : State) (r : Reg) : Byte := s.v[r.val]

/-- `V[r] <- b`: every register can be written, none is hardwired (10_state R20). -/
def State.setReg (s : State) (r : Reg) (b : Byte) : State := { s with v := s.v.set r.val b }

/-- The registers with `V[k], V[k+1], …` replaced by the bytes, in ascending order (42_index_memory R185). -/
def writeRegs (v : Vector Byte 16) : Nat → List Byte → Vector Byte 16
  | _, [] => v
  | k, b :: bs => writeRegs (if h : k < 16 then v.set k b else v) (k + 1) bs

/-- V0, V1, … replaced by the bytes. -/
def State.setLowRegs (s : State) (bs : List Byte) : State := { s with v := writeRegs s.v 0 bs }

/-- `I <- w` (10_state R24). -/
def State.setI (s : State) (w : Word) : State := { s with i := w }

/-- `PC <- w`, unchecked: only the next fetch checks it (40_control_flow R132). -/
def State.setPc (s : State) (w : Word) : State := { s with pc := w }

/-- `DT <- b` (10_state R29). -/
def State.setDt (s : State) (b : Byte) : State := { s with dt := b }

/-- `ST <- b` (10_state R30). -/
def State.setSt (s : State) (b : Byte) : State := { s with st := b }

/-- K replaced whole (10_state R31). -/
def State.setKeys (s : State) (k : KeySnapshot) : State := { s with keys := k }

/-- FB replaced (10_state R32). -/
def State.setFb (s : State) (fb : Framebuffer) : State := { s with fb := fb }

/-- M replaced. -/
def State.setMem (s : State) (m : Memory) : State := { s with mem := m }

/-- S replaced. -/
def State.setStack (s : State) (st : List Word) : State := { s with stack := st }

/-- `push(S, w)`: appends (00_scope R11). -/
def State.push (s : State) (w : Word) : State := s.setStack (s.stack ++ [w])

/-- The last element of S, which `pop(S)` returns, or none when S is empty (00_scope R11). -/
def State.top (s : State) : Option Word := s.stack.getLast?

/-- S without its last element, which `pop(S)` leaves (00_scope R11). -/
def State.drop (s : State) : State := s.setStack s.stack.dropLast

/-- `|S| = STACK_CAPACITY`, which never holds under `Unbounded` (10_state R28; 60_exceptions R242). A depth above the capacity, which
no run reaches, counts as full (log 10). -/
def State.stackFull (s : State) : Bool :=
  match s.params.stackCapacity with
  | .bounded n => n ≤ s.stack.length
  | .unbounded => false

/-- `draw_byte()`: the byte the oracle RAND answers next (00_scope R12; log 2). -/
def State.drawnByte (s : State) : Byte := Config.rand s.draws

/-- The oracle has been asked once more. -/
def State.countDraw (s : State) : State := { s with draws := s.draws + 1 }

/-! ## Faults and events -/

/-- The number the spec gives each fault (60_exceptions R240). -/
def FaultCode.number : FaultCode → Nat
  | .stackUnderflow => 1
  | .stackOverflow => 2
  | .memoryOutOfBounds => 3
  | .keyIndexOutOfRange => 4
  | .pcMisaligned => 5

/-- TAKING A FAULT: the record is saved and nothing else changes (60_exceptions R246). The next step finds the core halted (R248). -/
def takeFault (r : FaultRecord) (s : State) : State := { s with fault := some r }

/-- The address `a` of the executing instruction: PC holds a + 2 while it executes (40_control_flow R120; DEDUCED, log 6). -/
def State.instrAddr (s : State) : Word := s.pc - 2

/-- `raise F(info)` in the rule of instruction `i`: the record holds the instruction's address and opcode, and every write of the
instruction is discarded (00_scope R12, R13; 60_exceptions R246, R247). -/
def raiseFault (i : Instr) (code : FaultCode) (info : FaultInfo) (s : State) : StepResult :=
  .next (takeFault ⟨code, s.instrAddr, some (encode i), info⟩ s)

/-- `emit E(info)`: appends to the event log (00_scope R12; 10_state R35). -/
def emitEvent (e : Event) (s : State) : State := { s with events := s.events ++ [e] }

/-- `Execute(Unknown(op))`: an event and nothing else (30_encoding R97; 60_exceptions R250). -/
def execUnknown (op : Word) (s : State) : State := emitEvent ⟨.unknownOpcode, op, s.instrAddr⟩ s

/-! ## Fetch -/

/-- The fetch: the opcode at PC, or the record of the fetch fault, checked in the order of R121 (40_control_flow R120, R121). -/
def fetch (s : State) : Except FaultRecord Word :=
  if s.pc.toNat % 2 = 1 ∧ s.params.oddPcPolicy = .fault then
    .error ⟨.pcMisaligned, s.pc, none, .nothing⟩
  else if s.pc.toNat + 1 > 0xFFF then
    .error ⟨.memoryOutOfBounds, s.pc, none, .address (max s.pc.toNat 0x1000)⟩
  else
    .ok (wordOfBytes (s.mem.read s.pc.toNat) (s.mem.read (s.pc.toNat + 1)))

/-- `PC <- a + 2` (40_control_flow R120). -/
def State.advancePc (s : State) : State := s.setPc (s.pc + 2)

/-- A skip: PC + 2 more when the condition holds, unchecked (40_control_flow R130). -/
def State.skipIf (s : State) (c : Bool) : State := if c then s.advancePc else s

end Sys2Proof.Machine
end

