-- ==== Sys2Proof/Machine/Operands.lean ====
section
/-! DEFINITION. The operand forms: the registers that the parameters select, the values V0 to Vx, addresses formed from I, the sprite
origin, key indices. Every one only reads the state (00_scope R13, phase 1). -/

namespace Sys2Proof.Machine

/-- The value `8xy6` and `8xyE` shift: V[x] or V[y] by SHIFT_SOURCE (41_alu R159, R161). -/
def State.shiftOperand (s : State) (x y : Reg) : Byte :=
  match s.params.shiftSource with
  | .vx => s.reg x
  | .vy => s.reg y

/-- The register number nnn[11:8] (40_control_flow R131). -/
def addrHighNibble (nnn : Addr12) : Reg := Fin.ofNat 16 (nnn.toNat / 0x100)

/-- The register that `Bnnn` adds: V0, or V[nnn[11:8]], by JUMP_OFFSET_REG (40_control_flow R131). -/
def State.jumpOffset (s : State) (nnn : Addr12) : Byte :=
  match s.params.jumpOffsetReg with
  | .v0 => s.reg 0
  | .vx => s.reg (addrHighNibble nnn)

/-- The values of V0 to V[x], x + 1 bytes (42_index_memory R184). -/
def State.lowRegs (s : State) (x : Reg) : List Byte := s.v.toList.take (x.val + 1)

/-- The base I of a data access, as an unbounded integer: I + k is not reduced (20_memory R69). -/
def State.base (s : State) : Nat := s.i.toNat

/-- `zext_16(V[x]) * 5`, the address of a glyph (42_index_memory R182). -/
def glyphAddr (b : Byte) : Word := zextByte b * 5

/-- The decimal digits of a byte: hundreds, tens, ones (42_index_memory R183). -/
def bcdDigits (b : Byte) : List Byte :=
  [BitVec.ofNat 8 (b.toNat / 100), BitVec.ofNat 8 (b.toNat / 10 % 10), BitVec.ofNat 8 (b.toNat % 10)]

/-- Column `V[x] mod 64` of a sprite's origin (43_display R202). -/
def State.originX (s : State) (x : Reg) : Nat := (s.reg x).toNat % 64

/-- Row `V[y] mod 32` of a sprite's origin (43_display R202). -/
def State.originY (s : State) (y : Reg) : Nat := (s.reg y).toNat % 32

/-- K[k], for a key index in [0, 15] (10_state R31); an index above names no key. -/
def keyDown (keys : KeySnapshot) (k : Nat) : Bool := if h : k < 16 then keys[k] else false

/-- The smallest k in 0 to 15 whose key is down (44_input_timers R222). -/
def firstKeyDown (keys : KeySnapshot) : Option Nat := (List.range 16).find? (keyDown keys)

end Sys2Proof.Machine
end

