-- ==== Sys2Proof/Machine/Flags.lean ====
section
/-! DEFINITION. Every flag the core computes, and the one place where a result and its flag are written (41_alu R150, R157 to R161).
The collision flag of `Dxyn` comes out of the draw in Machine/Display.lean (43_display R202). -/

namespace Sys2Proof.Machine

/-- Carry out of bit 7: the unsigned sum exceeds 255 (41_alu R157). -/
def carryFlag (a b : Byte) : Bool := a.toNat + b.toNat > 255

/-- No borrow: a >= b, so equality gives 1 (41_alu R158, R160). -/
def notBorrowFlag (a b : Byte) : Bool := b.toNat ≤ a.toNat

/-- The bit a right shift by 1 shifts out, bit 0 (41_alu R159). -/
def shiftedOutRight (v : Byte) : Bool := v.getLsbD 0

/-- The bit a left shift by 1 shifts out, bit 7, as the bit value and not in place (41_alu R161; D38). -/
def shiftedOutLeft (v : Byte) : Bool := v.getLsbD 7

/-- `WriteResultAndFlag(x, res, f)`: two writes in the order of VF_WRITE_ORDER, the later one stands (41_alu R150; 00_scope R13). -/
def State.writeResultAndFlag (s : State) (x : Reg) (res : Byte) (f : Bool) : State :=
  match s.params.vfWriteOrder with
  | .flagLast => (s.setReg x res).setReg vF (flagByte f)
  | .resultLast => (s.setReg vF (flagByte f)).setReg x res

end Sys2Proof.Machine
end

