-- ==== Sys2Proof/Machine/Alu.lean ====
section
/-! DEFINITION. The register file and the ALU (41_alu R150 to R163): 8-bit unsigned arithmetic modulo 256, no fault. -/

namespace Sys2Proof.Machine

/-- `6xnn` LD Vx, nn (R151). -/
def execLdImm (x : Reg) (nn : Byte) (s : State) : StepResult := .next (s.setReg x nn)

/-- `7xnn` ADD Vx, nn (R152): no flag. -/
def execAddImm (x : Reg) (nn : Byte) (s : State) : StepResult := .next (s.setReg x (s.reg x + nn))

/-- `8xy0` LD Vx, Vy (R153). -/
def execLdReg (x y : Reg) (s : State) : StepResult := .next (s.setReg x (s.reg y))

/-- `8xy1` OR Vx, Vy (R154): no flag. -/
def execOrReg (x y : Reg) (s : State) : StepResult := .next (s.setReg x (s.reg x ||| s.reg y))

/-- `8xy2` AND Vx, Vy (R155): no flag. -/
def execAndReg (x y : Reg) (s : State) : StepResult := .next (s.setReg x (s.reg x &&& s.reg y))

/-- `8xy3` XOR Vx, Vy (R156): no flag. -/
def execXorReg (x y : Reg) (s : State) : StepResult := .next (s.setReg x (s.reg x ^^^ s.reg y))

/-- `8xy4` ADD Vx, Vy (R157). -/
def execAddReg (x y : Reg) (s : State) : StepResult :=
  .next (s.writeResultAndFlag x (s.reg x + s.reg y) (carryFlag (s.reg x) (s.reg y)))

/-- `8xy5` SUB Vx, Vy (R158). -/
def execSub (x y : Reg) (s : State) : StepResult :=
  .next (s.writeResultAndFlag x (s.reg x - s.reg y) (notBorrowFlag (s.reg x) (s.reg y)))

/-- `8xy6` SHR Vx, Vy (R159). -/
def execShr (x y : Reg) (s : State) : StepResult :=
  .next (s.writeResultAndFlag x (s.shiftOperand x y >>> 1) (shiftedOutRight (s.shiftOperand x y)))

/-- `8xy7` SUBN Vx, Vy (R160). -/
def execSubn (x y : Reg) (s : State) : StepResult :=
  .next (s.writeResultAndFlag x (s.reg y - s.reg x) (notBorrowFlag (s.reg y) (s.reg x)))

/-- `8xyE` SHL Vx, Vy (R161). -/
def execShl (x y : Reg) (s : State) : StepResult :=
  .next (s.writeResultAndFlag x (s.shiftOperand x y <<< 1) (shiftedOutLeft (s.shiftOperand x y)))

/-- `Cxnn` RND Vx, nn (R162): the drawn byte is a free value (log 2). -/
def execRnd (x : Reg) (nn : Byte) (s : State) : StepResult := .next ((s.setReg x (s.drawnByte &&& nn)).countDraw)

end Sys2Proof.Machine
end

