-- ==== Sys2Proof/Machine/ControlFlow.lean ====
section
/-! DEFINITION. Return, jumps, call and the four register skips (40_control_flow R123 to R131). Each meaning starts from the state
after the fetch, PC = a + 2. -/

namespace Sys2Proof.Machine

/-- `00EE` RET (R123). -/
def execRet (s : State) : StepResult :=
  match s.top with
  | none => raiseFault .ret .stackUnderflow .nothing s
  | some a => .next (s.drop.setPc a)

/-- `1nnn` JP nnn (R124). -/
def execJp (nnn : Addr12) (s : State) : StepResult := .next (s.setPc (zextAddr nnn))

/-- `2nnn` CALL nnn (R125). -/
def execCall (nnn : Addr12) (s : State) : StepResult :=
  if s.stackFull then raiseFault (.call nnn) .stackOverflow .nothing s
  else .next ((s.push s.pc).setPc (zextAddr nnn))

/-- `3xnn` SE Vx, nn (R126). -/
def execSeImm (x : Reg) (nn : Byte) (s : State) : StepResult := .next (s.skipIf (s.reg x == nn))

/-- `4xnn` SNE Vx, nn (R127). -/
def execSneImm (x : Reg) (nn : Byte) (s : State) : StepResult := .next (s.skipIf (s.reg x != nn))

/-- `5xy0` SE Vx, Vy (R128). -/
def execSeReg (x y : Reg) (s : State) : StepResult := .next (s.skipIf (s.reg x == s.reg y))

/-- `9xy0` SNE Vx, Vy (R129). -/
def execSneReg (x y : Reg) (s : State) : StepResult := .next (s.skipIf (s.reg x != s.reg y))

/-- `Bnnn` JP V0, nnn (R131): the sum fits in 16 bits and is not reduced. -/
def execJpV0 (nnn : Addr12) (s : State) : StepResult :=
  .next (s.setPc (zextAddr nnn + zextByte (s.jumpOffset nnn)))

end Sys2Proof.Machine
end

