-- ==== Sys2Proof/Machine/Display.lean ====
section
/-! DEFINITION. The framebuffer: its one primitive, the clear and the sprite draw (43_display R200 to R204). -/

namespace Sys2Proof.Machine

/-- `FB[px][py]`, px in [0, 63], py in [0, 31] (10_state R32). -/
def Framebuffer.get (fb : Framebuffer) (px : Fin 64) (py : Fin 32) : Bool := fb[px.val][py.val]

/-- `FB[px][py] <- b`. -/
def Framebuffer.set (fb : Framebuffer) (px : Fin 64) (py : Fin 32) (b : Bool) : Framebuffer :=
  Vector.set fb px.val (fb[px.val].set py.val b)

/-- Every pixel false (R201). -/
def Framebuffer.clear : Framebuffer := Vector.replicate 64 (Vector.replicate 32 false)

/-- `blit(px, py) -> collided`: toggles one pixel, true iff it went from set to clear (R200). -/
def blit (fb : Framebuffer) (px : Fin 64) (py : Fin 32) : Framebuffer × Bool :=
  (fb.set px py (!fb.get px py), fb.get px py)

/-- `(b >> (7 - col)) & 1 = 1`: column 0 is bit 7 (R202). -/
def spriteBit (b : Byte) (col : Nat) : Bool := b.getLsbD (7 - col)

/-- One column of a row: a blit when the sprite bit is set; the second component collects the collisions (R202). -/
def drawBit (ox oy row : Nat) (b : Byte) (acc : Framebuffer × Bool) (col : Nat) : Framebuffer × Bool :=
  if spriteBit b col then
    let r := blit acc.1 (Fin.ofNat 64 (ox + col)) (Fin.ofNat 32 (oy + row))
    (r.1, acc.2 || r.2)
  else acc

/-- One row: columns 0 to 7 (R202). -/
def drawRow (ox oy row : Nat) (b : Byte) (acc : Framebuffer × Bool) : Framebuffer × Bool :=
  (List.range 8).foldl (drawBit ox oy row b) acc

/-- The rows of a sprite from number `row` on, in ascending order (R202). -/
def drawRows (ox oy : Nat) : Nat → List Byte → Framebuffer × Bool → Framebuffer × Bool
  | _, [], acc => acc
  | row, b :: bs, acc => drawRows ox oy (row + 1) bs (drawRow ox oy row b acc)

/-- A whole sprite: the new framebuffer, and whether any blit turned a set pixel off (R202). -/
def drawSprite (fb : Framebuffer) (ox oy : Nat) (rows : List Byte) : Framebuffer × Bool := drawRows ox oy 0 rows (fb, false)

/-- `00E0` CLS (R201). -/
def execCls (s : State) : StepResult := .next (s.setFb Framebuffer.clear)

/-- `Dxyn` DRW Vx, Vy, n (R202): origin and rows are read first, VF is written last, so x = F and y = F read the old VF (D19). -/
def execDrw (x y : Reg) (n : RowCount) (s : State) : StepResult :=
  match readBlock s.mem s.base n.val with
  | .error a => raiseFault (.drw x y n) .memoryOutOfBounds (.address a) s
  | .ok rows =>
    .next ((s.setFb (drawSprite s.fb (s.originX x) (s.originY y) rows).1).setReg vF
      (flagByte (drawSprite s.fb (s.originX x) (s.originY y) rows).2))

end Sys2Proof.Machine
end

