-- ==== Sys2Proof/Machine/IndexMemory.lean ====
section
/-! DEFINITION. The index register and the transfers between registers and memory (42_index_memory R180 to R186). The transfers leave
I unchanged (R183 to R185). An out-of-bounds one records its first address out of bounds and writes nothing (20_memory R70). -/

namespace Sys2Proof.Machine

/-- `Annn` LD I, nnn (R180). -/
def execLdI (nnn : Addr12) (s : State) : StepResult := .next (s.setI (zextAddr nnn))

/-- `Fx1E` ADD I, Vx (R181): 16 bits wide, no flag. -/
def execAddI (x : Reg) (s : State) : StepResult := .next (s.setI (s.i + zextByte (s.reg x)))

/-- `Fx29` LD F, Vx (R182): no masking of Vx. -/
def execLdF (x : Reg) (s : State) : StepResult := .next (s.setI (glyphAddr (s.reg x)))

/-- `Fx33` LD B, Vx (R183). -/
def execLdB (x : Reg) (s : State) : StepResult :=
  match writeBlock s.mem s.base (bcdDigits (s.reg x)) with
  | .error a => raiseFault (.ldB x) .memoryOutOfBounds (.address a) s
  | .ok m => .next (s.setMem m)

/-- `Fx55` LD [I], Vx (R184). -/
def execStore (x : Reg) (s : State) : StepResult :=
  match writeBlock s.mem s.base (s.lowRegs x) with
  | .error a => raiseFault (.store x) .memoryOutOfBounds (.address a) s
  | .ok m => .next (s.setMem m)

/-- `Fx65` LD Vx, [I] (R185). -/
def execLoad (x : Reg) (s : State) : StepResult :=
  match readBlock s.mem s.base (x.val + 1) with
  | .error a => raiseFault (.load x) .memoryOutOfBounds (.address a) s
  | .ok bs => .next (s.setLowRegs bs)

end Sys2Proof.Machine
end

