-- ==== Sys2Proof/Machine/InputTimers.lean ====
section
/-! DEFINITION. The instructions that read the key snapshot and those that move the timers (44_input_timers R220 to R225). -/

namespace Sys2Proof.Machine

/-- `Ex9E` SKP Vx (R220): the key index is the value of Vx, not the field x. -/
def execSkp (x : Reg) (s : State) : StepResult :=
  if (s.reg x).toNat > 15 then raiseFault (.skp x) .keyIndexOutOfRange (.key (s.reg x)) s
  else .next (s.skipIf (keyDown s.keys (s.reg x).toNat))

/-- `ExA1` SKNP Vx (R221). -/
def execSknp (x : Reg) (s : State) : StepResult :=
  if (s.reg x).toNat > 15 then raiseFault (.sknp x) .keyIndexOutOfRange (.key (s.reg x)) s
  else .next (s.skipIf (!keyDown s.keys (s.reg x).toNat))

/-- `Fx0A` LD Vx, K (R222): without a key down, `PC <- max(PC - 2, 0)`, so the next fetch finds the same instruction. -/
def execLdVxK (x : Reg) (s : State) : StepResult :=
  match firstKeyDown s.keys with
  | some k => .next (s.setReg x (BitVec.ofNat 8 k))
  | none => .next (s.setPc (BitVec.ofNat 16 (s.pc.toNat - 2)))

/-- `Fx07` LD Vx, DT (R223). -/
def execLdVxDt (x : Reg) (s : State) : StepResult := .next (s.setReg x s.dt)

/-- `Fx15` LD DT, Vx (R224). -/
def execLdDtVx (x : Reg) (s : State) : StepResult := .next (s.setDt (s.reg x))

/-- `Fx18` LD ST, Vx (R225). -/
def execLdStVx (x : Reg) (s : State) : StepResult := .next (s.setSt (s.reg x))

end Sys2Proof.Machine
end

