-- ==== Sys2Proof/Machine/Step.lean ====
section
/-! DEFINITION. One step of the core (40_control_flow R120 to R122; 60_exceptions R247, R248), and the state with one opcode placed
where the next step fetches it. -/

namespace Sys2Proof.Machine

/-- `Step()`: enabled only while `fault = none` (R120, R248). A fetch fault leaves all other state unchanged (R247); an execution
starts from PC = a + 2. -/
def step (s : State) : Host.Outcome State Fault Refusal :=
  match s.fault with
  | some r => .fault (.halted r)
  | none =>
    match fetch s with
    | .error r => .next (takeFault r s)
    | .ok op =>
      match decodeWord op with
      | some i => exec i s.advancePc
      | none => .next (execUnknown op s.advancePc)

/-- `s` with the opcode of `w`'s lowest `nbits` bits stored at PC, high byte first (20_memory R67): it stands for a program loaded
from outside (log 9). Where PC + 1 is above 0xFFF no fetch reads memory, and `s` is unchanged. -/
def State.withFetchWord (s : State) (nbits w : Nat) : State :=
  match writeBlock s.mem s.pc.toNat (bytesOfWord (tableWord nbits w)) with
  | .ok m => s.setMem m
  | .error _ => s

end Sys2Proof.Machine
end

