-- ==== Sys2Proof/Machine/Assembler.lean ====
section
/-! DEFINITION. The spec's assembler notation (30_encoding R93 column asm, R101, R102). It has no semantic force (D27) and the machine
does not use it: it says which bytes a listing stands for. Labels and decimal immediates are left out (log 15). -/

namespace Sys2Proof.Machine

/-- A source line: an instruction, a pseudo-instruction or the directive (R101, R102). -/
inductive AsmLine where
  | instr (i : Instr)
  /-- `SHR Vx` -/
  | shrOne (x : Reg)
  /-- `SHL Vx` -/
  | shlOne (x : Reg)
  /-- `DB b0, b1, …` -/
  | db (bytes : List Byte)
  deriving DecidableEq, Repr

/-- `SHR Vx` is `SHR Vx, V0` and `SHL Vx` is `SHL Vx, V0` (R102). -/
def AsmLine.instr? : AsmLine → Option Instr
  | .instr i => some i
  | .shrOne x => some (.shr x 0)
  | .shlOne x => some (.shl x 0)
  | .db _ => none

/-- The padding before an opcode at an odd address; its value 0 is a DESIGN CHOICE, safe: it is never executed (log 15). -/
def padToEven (a : Nat) : List Byte := if a % 2 = 1 then [0] else []

/-- The bytes of a listing that starts at address `a`: an instruction is one opcode, high byte first, at the next even address;
`DB` emits its bytes where they fall (R101, R102). -/
def assembleAt (a : Nat) : List AsmLine → List Byte
  | [] => []
  | .db bs :: rest => bs ++ assembleAt (a + bs.length) rest
  | .instr i :: rest => padToEven a ++ bytesOfWord (encode i) ++ assembleAt (a + a % 2 + 2) rest
  | .shrOne x :: rest => padToEven a ++ bytesOfWord (encode (.shr x 0)) ++ assembleAt (a + a % 2 + 2) rest
  | .shlOne x :: rest => padToEven a ++ bytesOfWord (encode (.shl x 0)) ++ assembleAt (a + a % 2 + 2) rest

/-- A hexadecimal digit. -/
def hexDigit (k : Nat) : String :=
  ["0", "1", "2", "3", "4", "5", "6", "7", "8", "9", "A", "B", "C", "D", "E", "F"].getD k "?"

/-- A register operand, `V0` to `VF` (R101). -/
def spellReg (r : Reg) : String := "V" ++ hexDigit r.val

/-- An 8-bit immediate, in hexadecimal with `0x` (R101). -/
def spellByte (b : Byte) : String := "0x" ++ hexDigit (b.toNat / 16) ++ hexDigit (b.toNat % 16)

/-- A 12-bit address, in hexadecimal with `0x` (R101). -/
def spellAddr (a : Addr12) : String :=
  "0x" ++ hexDigit (a.toNat / 256) ++ hexDigit (a.toNat / 16 % 16) ++ hexDigit (a.toNat % 16)

/-- Two operands. -/
def spellTwo (name p q : String) : String := name ++ " " ++ p ++ ", " ++ q

/-- The assembly spelling of an instruction, the asm column of R93. -/
def spell : Instr → String
  | .cls => "CLS"
  | .ret => "RET"
  | .jp nnn => "JP " ++ spellAddr nnn
  | .call nnn => "CALL " ++ spellAddr nnn
  | .seImm x nn => spellTwo "SE" (spellReg x) (spellByte nn)
  | .sneImm x nn => spellTwo "SNE" (spellReg x) (spellByte nn)
  | .seReg x y => spellTwo "SE" (spellReg x) (spellReg y)
  | .ldImm x nn => spellTwo "LD" (spellReg x) (spellByte nn)
  | .addImm x nn => spellTwo "ADD" (spellReg x) (spellByte nn)
  | .ldReg x y => spellTwo "LD" (spellReg x) (spellReg y)
  | .orReg x y => spellTwo "OR" (spellReg x) (spellReg y)
  | .andReg x y => spellTwo "AND" (spellReg x) (spellReg y)
  | .xorReg x y => spellTwo "XOR" (spellReg x) (spellReg y)
  | .addReg x y => spellTwo "ADD" (spellReg x) (spellReg y)
  | .sub x y => spellTwo "SUB" (spellReg x) (spellReg y)
  | .shr x y => spellTwo "SHR" (spellReg x) (spellReg y)
  | .subn x y => spellTwo "SUBN" (spellReg x) (spellReg y)
  | .shl x y => spellTwo "SHL" (spellReg x) (spellReg y)
  | .sneReg x y => spellTwo "SNE" (spellReg x) (spellReg y)
  | .ldI nnn => spellTwo "LD" "I" (spellAddr nnn)
  | .jpV0 nnn => spellTwo "JP" "V0" (spellAddr nnn)
  | .rnd x nn => spellTwo "RND" (spellReg x) (spellByte nn)
  | .drw x y n => spellTwo "DRW" (spellReg x) (spellReg y) ++ ", " ++ toString n.val
  | .skp x => "SKP " ++ spellReg x
  | .sknp x => "SKNP " ++ spellReg x
  | .ldVxDt x => spellTwo "LD" (spellReg x) "DT"
  | .ldVxK x => spellTwo "LD" (spellReg x) "K"
  | .ldDtVx x => spellTwo "LD" "DT" (spellReg x)
  | .ldStVx x => spellTwo "LD" "ST" (spellReg x)
  | .addI x => spellTwo "ADD" "I" (spellReg x)
  | .ldF x => spellTwo "LD" "F" (spellReg x)
  | .ldB x => spellTwo "LD" "B" (spellReg x)
  | .store x => spellTwo "LD" "[I]" (spellReg x)
  | .load x => spellTwo "LD" (spellReg x) "[I]"

end Sys2Proof.Machine
end

