-- ==== Sys2Proof/Machine/HostOps.lean ====
section
/-! DEFINITION. The operations through which the host drives the core, each between two steps (60_exceptions R254, R255, R261 to R270;
70_reset R280 to R287), and the frame (R268). -/

namespace Sys2Proof.Machine

/-! ## Reset and load -/

/-- Memory with the bytes stored from address `a` upward. -/
def Memory.putBlock (m : Memory) (a : Nat) : List Byte → Memory
  | [] => m
  | b :: bs => putBlock (m.put a b) (a + 1) bs

/-- `reset()` for any setting of the parameters and any FONT (70_reset R280, R281; 20_memory R62; log 8). -/
def State.resetWith (p : Params) (font : Font) : State :=
  { State.reset with params := p, mem := Memory.putBlock [] 0 font.toList }

/-- The failure of `load`: a result of the host operation, no fault of the core (70_reset R284). -/
inductive LoadError where
  | capacityExceeded
  deriving DecidableEq, Repr

/-- `load(bytes)`: the image at 0x200, all or nothing (70_reset R283, R284). -/
def load (bytes : List Byte) (s : State) : Except LoadError State :=
  if bytes.length > 4096 - 0x200 then .error .capacityExceeded else .ok (s.setMem (s.mem.putBlock 0x200 bytes))

/-- What the host does before the first step: one reset, then one load (70_reset R285, R286; 60_exceptions R269; log 13). -/
def boot (p : Params) (font : Font) (image : List Byte) : Except LoadError State := load image (State.resetWith p font)

/-! ## The operations on a booted core -/

/-- `set_keys(k)`: replaces K and nothing else (R262). -/
def hostSetKeys (k : KeySnapshot) (s : State) : State := s.setKeys k

/-- A counter that saturates at 0 (R254). -/
def countDown (b : Byte) : Byte := if b.toNat > 0 then b - 1 else b

/-- `Tick()`: the two timers, independently (R254). -/
def tick (s : State) : State := (s.setDt (countDown s.dt)).setSt (countDown s.st)

/-- The level `tone = (ST != 0)` (R255). -/
def State.tone (s : State) : Bool := s.st != 0

/-- `step()`: one `Step`, and nothing when the core is halted (R263, R270). -/
def hostStep (s : State) : State :=
  match step s with
  | .next t => t
  | .fault _ => s
  | .refused _ => s

/-- What `step()` returns: the new fault record if the step faulted (R263). -/
def hostStepReply (s : State) : Option FaultRecord :=
  match s.fault with
  | some _ => none
  | none => (hostStep s).fault

/-- The moves the host has once the core is booted (R261, R269; log 13). -/
inductive HostOp where
  | setKeys (k : KeySnapshot)
  | step
  | tick
  | framebuffer
  | tone
  | fault
  | events
  deriving DecidableEq, Repr

/-- What an operation hands back to the host (R261, R263 to R265). -/
inductive HostReply where
  | done
  | pixels (fb : Framebuffer)
  | level (tone : Bool)
  | record (r : Option FaultRecord)
  | log (es : List Event)
  deriving DecidableEq, Repr

/-- An operation of R261: the new state and the reply. The reads change no state (R264, R265). -/
def HostOp.apply (op : HostOp) (s : State) : State × HostReply :=
  match op with
  | .setKeys k => (hostSetKeys k s, .done)
  | .step => (hostStep s, .record (hostStepReply s))
  | .tick => (Sys2Proof.Machine.tick s, .done)
  | .framebuffer => (s, .pixels s.fb)
  | .tone => (s, .level s.tone)
  | .fault => (s, .record s.fault)
  | .events => (s, .log s.events)

/-! ## Frames -/

/-- `repeat IPF times: if fault != none: stop repeating; step()` (R268). -/
def stepUpTo : Nat → State → State
  | 0, s => s
  | n + 1, s =>
    match s.fault with
    | some _ => s
    | none => stepUpTo n (hostStep s)

/-- What a frame hands to the display and the audio sink (R264, R268). -/
structure FrameOutput where
  pixels : Framebuffer
  tone : Bool
  deriving DecidableEq, Repr

/-- `Frame()`: set_keys, up to IPF steps, tick, then the framebuffer and the tone sample (R268). -/
def frame (ipf : Nat) (k : KeySnapshot) (s : State) : State × FrameOutput :=
  let t := tick (stepUpTo ipf (hostSetKeys k s))
  (t, ⟨t.fb, t.tone⟩)

/-- The edge between two tone samples, which starts or stops the tone (R255). -/
inductive ToneEdge where
  | start
  | stop
  deriving DecidableEq, Repr

/-- An edge is a change of `tone` between two samples (R255). -/
def toneEdge (before after : Bool) : Option ToneEdge :=
  match before, after with
  | false, true => some .start
  | true, false => some .stop
  | false, false => none
  | true, true => none

end Sys2Proof.Machine

namespace Sys2Proof

/-- The host changes IPF between frames, within [IPF_MIN, IPF_MAX] (60_exceptions R266; log 14). -/
def FrameBudget.adjust (b : FrameBudget) (wanted : Nat) : FrameBudget := { b with ipf := max b.ipfMin (min wanted b.ipfMax) }

end Sys2Proof
end

