-- ==== Sys2Proof/Safety.lean ====
section
/-! DEFINITION. The terms in which claims about runs are made: halted and terminal states (60_exceptions R248, R267), the states a host
can bring the core to (R269; 70_reset R285), and the invariant of the core. -/

namespace Sys2Proof.Machine

/-- Halted: `fault` is not `none` (00_scope R17; 60_exceptions R248). -/
def State.halted (s : State) : Bool := s.fault.isSome

/-- The opcode at PC and PC + 1 (20_memory R67). -/
def State.opcodeAtPc (s : State) : Word := wordOfBytes (s.mem.read s.pc.toNat) (s.mem.read (s.pc.toNat + 1))

/-- At a terminal loop: PC is even, PC <= 0xFFE, and the opcode at PC is `1nnn` with nnn = PC (60_exceptions R267). The hardware does
not stop there. -/
def State.atTerminalLoop (s : State) : Bool :=
  s.pc.toNat % 2 == 0 && s.pc.toNat ≤ 0xFFE && s.opcodeAtPc == encode (.jp (s.pc.setWidth 12))

/-- The states a host can bring the core to: one reset with any parameters, any FONT and any image that loads, then any of the
host's moves in any order (60_exceptions R261, R269; 70_reset R285; log 13). -/
inductive Reachable : State → Prop where
  | boot (p : Params) (font : Font) (image : List Byte) (s : State) :
      p.wellFormed = true → Sys2Proof.Machine.boot p font image = .ok s → Reachable s
  | move (op : HostOp) (s : State) : Reachable s → Reachable (op.apply s).1

/-- The instruction an opcode spells reaches memory through I (60_exceptions R243). -/
def reachesMemory (op : Word) : Bool :=
  match decodeWord op with
  | some (.drw _ _ _) => true
  | some (.ldB _) => true
  | some (.store _) => true
  | some (.load _) => true
  | _ => false

/-- The instruction an opcode spells takes a key index from a register (60_exceptions R244). -/
def takesKeyIndex (op : Word) : Bool :=
  match decodeWord op with
  | some (.skp _) => true
  | some (.sknp _) => true
  | _ => false

/-- The instruction an opcode spells is a call (60_exceptions R242). -/
def isCall (op : Word) : Bool :=
  match decodeWord op with
  | some (.call _) => true
  | _ => false

/-- A fault record that R240 to R246 allow: the code, the opcode and the info belong together. -/
def FaultRecord.consistent (r : FaultRecord) : Prop :=
  match r.code, r.opcode, r.info with
  | .stackUnderflow, some op, .nothing => op = 0x00EE
  | .stackOverflow, some op, .nothing => isCall op = true
  | .memoryOutOfBounds, none, .address a => a = max r.pc.toNat 0x1000 ∧ 0xFFE < r.pc.toNat
  | .memoryOutOfBounds, some op, .address a => reachesMemory op = true ∧ 0xFFF < a
  | .keyIndexOutOfRange, some op, .key k => takesKeyIndex op = true ∧ 15 < k.toNat
  | .pcMisaligned, none, .nothing => r.pc.toNat % 2 = 1
  | _, _, _ => False

/-- PC as R247 leaves it: the PC of a failed fetch, or the instruction's address plus 2. -/
def FaultRecord.leavesPc (r : FaultRecord) (pc : Word) : Prop :=
  match r.opcode with
  | none => pc = r.pc
  | some _ => pc = r.pc + 2

/-- The invariant of the core. -/
structure State.Inv (s : State) : Prop where
  /-- memory is in canonical form, within 4096 bytes (10_state R33) -/
  memWf : s.mem.wf
  /-- PC is at most 0x10FE (10_state R26) -/
  pcBound : s.pc.toNat ≤ 0x10FE
  /-- every return address is the address after a fetched call (10_state R27; 40_control_flow R125) -/
  stackEntries : ∀ a ∈ s.stack, 2 ≤ a.toNat ∧ a.toNat ≤ 0x1000
  /-- the depth is within STACK_CAPACITY (10_state R28) -/
  stackDepth : ∀ n, s.params.stackCapacity = .bounded n → s.stack.length ≤ n
  /-- every event reports an opcode that does not decode, at an address it was fetched from (60_exceptions R250) -/
  eventsUnknown : ∀ e ∈ s.events, decodeWord e.opcode = none ∧ e.pc.toNat ≤ 0xFFE
  /-- the fault record is one that R240 to R246 allow -/
  faultConsistent : ∀ r, s.fault = some r → r.consistent
  /-- faults are precise about PC (60_exceptions R247) -/
  faultPc : ∀ r, s.fault = some r → r.leavesPc s.pc

/-! ## What a claim about one instruction says -/

/-- The opcode that spells `i` matches the row `bits`, `mask` of the opcode map, and decodes to `i` (30_encoding R93, R94). -/
def Spells (i : Instr) (bits mask : Word) : Prop := encode i &&& mask = bits ∧ decodeWord (encode i) = some i

/-- `i` completes, register `r` then holds `f r` for every `r`, and nothing but registers has changed. -/
def RegsBecome (i : Instr) (s : State) (f : Reg → Byte) : Prop :=
  ∃ v' : Vector Byte 16, exec i s = .next { s with v := v' } ∧ ∀ r : Reg, v'[r.val] = f r

/-- `i` completes, the byte at `a` is then `f a` for every address `a`, and nothing but memory has changed. -/
def MemBecomes (i : Instr) (s : State) (f : Nat → Byte) : Prop :=
  ∃ m' : Memory, exec i s = .next { s with mem := m' } ∧ ∀ a : Nat, m'.read a = f a

/-- `i` takes a fault with this code and info: the record holds the address and the opcode of `i`, and nothing but the fault status
has changed (60_exceptions R246, R247). -/
def Faults (i : Instr) (s : State) (code : FaultCode) (info : FaultInfo) : Prop :=
  exec i s = .next { s with fault := some ⟨code, s.pc - 2, some (encode i), info⟩ }

/-- `a` is the first address above 0xFFF among the `n` addresses from `base` upward, in ascending order (60_exceptions R251). -/
def FirstOutOfBounds (base n a : Nat) : Prop :=
  ∃ k, k < n ∧ a = base + k ∧ 0xFFF < base + k ∧ ∀ j, j < k → base + j ≤ 0xFFF

/-- The byte at `a` once the bytes `bs` stand from `base` upward in a memory that was `m`. -/
def overlaid (m : Memory) (base : Nat) (bs : List Byte) (a : Nat) : Byte :=
  if base ≤ a then bs.getD (a - base) (m.read a) else m.read a

/-- The next fetch from `t` answers the opcode at the PC of `s`, with the bytes `bs` from `base` upward in place (20_memory R67, R74). -/
def FetchesOver (s t : State) (base : Nat) (bs : List Byte) : Prop :=
  fetch t = .ok (wordOfBytes (overlaid s.mem base bs s.pc.toNat) (overlaid s.mem base bs (s.pc.toNat + 1)))

/-- What register `r` holds after a result `res` for V[x] and a flag `f` for VF were written (41_alu R150). -/
def flagWritten (s : State) (x : Reg) (res f : Byte) (r : Reg) : Byte :=
  if r = vF then (if x = vF ∧ s.params.vfWriteOrder = .resultLast then res else f) else if r = x then res else s.reg r

/-- The sprite of a `Dxyn` has a set bit that falls on pixel (px, py), drawn from origin (ox, oy) with the `n` rows at `base`
(43_display R202, R203). -/
def SpriteCovers (m : Memory) (base n ox oy : Nat) (px : Fin 64) (py : Fin 32) : Prop :=
  ∃ row col, row < n ∧ col < 8 ∧ (m.read (base + row)).getLsbD (7 - col) = true ∧
    px.val = (ox + col) % 64 ∧ py.val = (oy + row) % 32

/-- The registers that 10_state R21 lets an instruction write. -/
def MayWriteReg (i : Instr) (r : Reg) : Prop :=
  match i with
  | .ldImm x _ | .addImm x _ | .rnd x _ | .ldVxDt x | .ldVxK x => r = x
  | .ldReg x _ | .orReg x _ | .andReg x _ | .xorReg x _ => r = x
  | .addReg x _ | .sub x _ | .shr x _ | .subn x _ | .shl x _ => r = x ∨ r = vF
  | .drw _ _ _ => r = vF
  | .load x => r ≤ x
  | .cls | .ret | .jp _ | .call _ | .seImm _ _ | .sneImm _ _ | .seReg _ _ | .sneReg _ _ | .ldI _ | .jpV0 _ => False
  | .skp _ | .sknp _ | .ldDtVx _ | .ldStVx _ | .addI _ | .ldF _ | .ldB _ | .store _ => False

/-- The instructions that 10_state R24 lets write I. -/
def MayWriteI : Instr → Bool
  | .ldI _ | .addI _ | .ldF _ => true
  | _ => false

/-- The instructions that change PC other than by the fetch (10_state R25): skips, jumps, call, return, and `Fx0A`. -/
def MayWritePc : Instr → Bool
  | .seImm _ _ | .sneImm _ _ | .seReg _ _ | .sneReg _ _ | .skp _ | .sknp _ | .jp _ | .call _ | .jpV0 _ | .ret | .ldVxK _ => true
  | _ => false

/-- The instructions that write memory (20_memory R66). -/
def MayWriteMem : Instr → Bool
  | .ldB _ | .store _ => true
  | _ => false

end Sys2Proof.Machine
end

