-- ==== Sys2Proof/Certificates/Slice0/Obligations.lean ====
section
/-! DEFINITION. The statements for the provers, from the numbered rules of spec/. An instruction's statement is about `exec` on the state
after the fetch, where PC is already a + 2 (40_control_flow R120), so a record's pc is `s.pc - 2`. A statement that says
`.next { s with … }` says with it that every field not named is unchanged. -/

open Sys2Proof Sys2Proof.Machine

/-! ## Encoding -/

/-- 30_encoding R90, R93, R94: no bit of an encoding is dropped, on words and on bytes. -/
def Obligations.EncodeThenDecode : Prop :=
  ∀ (i : Instr) (rest : List Byte),
    decodeWord (encode i) = some i ∧ decode (bytesOfWord (encode i) ++ rest) = .ok (i, rest)

/-- R100: every bit is fixed or belongs to a field, so an opcode has one spelling; the y of a shift is ignored under SHIFT_SOURCE = Vx
(the spec's decision D9). -/
def Obligations.DecodeThenEncode : Prop :=
  (∀ (op : Word) (i : Instr), decodeWord op = some i → encode i = op) ∧
  (∀ (x y z : Reg) (s : State), s.params.shiftSource = .vx →
    exec (.shr x y) s = exec (.shr x z) s ∧ exec (.shl x y) s = exec (.shl x z) s)

/-- R93, R94: `Decode(op)` is the row that op matches, and `Unknown` exactly when op matches no row. -/
def Obligations.DecoderFollowsOpcodeMap : Prop :=
  ∀ op : Word,
    (∀ i, decodeWord op = some i → i.row ∈ opcodeRows ∧ op &&& i.row.mask = i.row.bits) ∧
    (decodeWord op = none ↔ ∀ r ∈ opcodeRows, op &&& r.mask ≠ r.bits)

/-- R94 (an inference the spec marks as its own): any two rows differ in a bit that both masks fix, so no opcode matches two rows. -/
def Obligations.RowsAreDisjoint : Prop :=
  opcodeRows.length = 34 ∧
  opcodeRows.Pairwise fun r q =>
    (r.bits ^^^ q.bits) &&& r.mask &&& q.mask ≠ 0 ∧ ∀ op : Word, ¬ (r.accepts op = true ∧ q.accepts op = true)

/-- R95: an opcode is an instruction exactly when its family's secondary field allows it. -/
def Obligations.DecoderFollowsFamilies : Prop :=
  ∀ op : Word, (decodeWord op).isSome = wellFormedWord op

/-- R96 (an inference the spec marks as its own): 21,582 of the 65,536 opcodes are unknown, counted by family. -/
def Obligations.UnknownOpcodeCount : Prop :=
  (∀ f : Fin 16,
    ((List.range 4096).filter fun k => (decodeWord (BitVec.ofNat 16 (f.val * 4096 + k))).isNone).length =
      [4094, 0, 0, 0, 0, 3840, 0, 0, 1792, 3840, 0, 0, 0, 0, 4064, 3952].getD f.val 0) ∧
  [4094, 0, 0, 0, 0, 3840, 0, 0, 1792, 3840, 0, 0, 0, 0, 4064, 3952].sum = 21582

/-- Words written out from R93, at least one for each of the sixteen families, and four words outside the map. -/
def Obligations.SampleOpcodesDecode : Prop :=
  decodeWord 0x00E0 = some .cls ∧ decodeWord 0x00EE = some .ret ∧ decodeWord 0x1208 = some (.jp 0x208) ∧
  decodeWord 0x220C = some (.call 0x20C) ∧ decodeWord 0x3310 = some (.seImm 3 0x10) ∧
  decodeWord 0x4311 = some (.sneImm 3 0x11) ∧ decodeWord 0x7102 = some (.addImm 1 0x02) ∧
  decodeWord 0x9120 = some (.sneReg 1 2) ∧ decodeWord 0xB300 = some (.jpV0 0x300) ∧
  decodeWord 0x5120 = some (.seReg 1 2) ∧ decodeWord 0x6A42 = some (.ldImm 10 0x42) ∧
  decodeWord 0x8126 = some (.shr 1 2) ∧ decodeWord 0x8F0E = some (.shl 15 0) ∧ decodeWord 0xA123 = some (.ldI 0x123) ∧
  decodeWord 0xC30F = some (.rnd 3 0x0F) ∧ decodeWord 0xDF15 = some (.drw 15 1 5) ∧
  decodeWord 0xE1A1 = some (.sknp 1) ∧ decodeWord 0xF533 = some (.ldB 5) ∧
  decodeWord 0x5121 = none ∧ decodeWord 0x9AB7 = none ∧ decodeWord 0x0123 = none ∧ decodeWord 0x8008 = none

/-- 20_memory R67: fetch is big-endian. -/
def Obligations.FetchIsBigEndian : Prop :=
  (∀ hi lo : Byte, (wordOfBytes hi lo).toNat = hi.toNat * 256 + lo.toNat) ∧
  (∀ (s : State) (op : Word), fetch s = .ok op →
    op = wordOfBytes (s.mem.read s.pc.toNat) (s.mem.read (s.pc.toNat + 1)))

/-! ## The step -/

/-- 40_control_flow R120, R121, R122: the two checks of the fetch in order, and otherwise PC + 2 and the instruction that the bytes at PC
decode to, or the event of an unknown opcode. The two faults are the spec's decisions D5 and D6. -/
def Obligations.StepFetchesDecodesExecutes : Prop :=
  ∀ s : State, s.fault = none →
    (s.pc.toNat % 2 = 1 → s.params.oddPcPolicy = .fault →
      step s = .next { s with fault := some ⟨.pcMisaligned, s.pc, none, .nothing⟩ }) ∧
    ((s.pc.toNat % 2 = 0 ∨ s.params.oddPcPolicy = .fetch) → 0xFFF < s.pc.toNat + 1 →
      step s = .next { s with fault := some ⟨.memoryOutOfBounds, s.pc, none, .address (max s.pc.toNat 0x1000)⟩ }) ∧
    ((s.pc.toNat % 2 = 0 ∨ s.params.oddPcPolicy = .fetch) → s.pc.toNat + 1 ≤ 0xFFF →
      (∀ i, decode [s.mem.read s.pc.toNat, s.mem.read (s.pc.toNat + 1)] = .ok (i, []) →
        step s = exec i { s with pc := s.pc + 2 }) ∧
      (∀ op, decode [s.mem.read s.pc.toNat, s.mem.read (s.pc.toNat + 1)] = .error (.unknownOpcode op) →
        step s = .next { s with pc := s.pc + 2, events := s.events ++ [⟨.unknownOpcode, op, s.pc⟩] }))

/-- 30_encoding R97; 60_exceptions R250: an unknown opcode emits its event and changes nothing else. -/
def Obligations.UnknownOpcodeOnlyEmits : Prop :=
  ∀ (s : State) (op : Word), execUnknown op s = { s with events := s.events ++ [⟨.unknownOpcode, op, s.pc - 2⟩] }

/-- 60_exceptions R248, R263: a halted core has no step, and the host's `step()` does nothing (the spec's decisions D17, D33). A fault as
a next state and the stop on a halted core are the model's form (log 5). -/
def Obligations.HaltedCoreHasNoStep : Prop :=
  (∀ (s : State) (r : FaultRecord), s.fault = some r →
    step s = .fault (.halted r) ∧ hostStep s = s ∧ hostStepReply s = none) ∧
  (∀ s t : State, s.fault = none → step s = .next t → hostStep s = t ∧ hostStepReply s = t.fault)

/-- Every instruction completes from every state, and a core that is not halted always has a step: a fault is a next state that holds
the record (the model's choice, log 5; the rules are R120, R122, R246). -/
def Obligations.EveryStepCompletes : Prop :=
  (∀ (i : Instr) (s : State), ∃ t, exec i s = .next t) ∧ (∀ s : State, s.fault = none → ∃ t, step s = .next t)

/-- R246, R247: a step that takes a fault records where, and leaves everything else as before the step (a fetch fault) or as after
the fetch (an execution fault). The record's form is the spec's decision D17; that PC - 2 is the address is DEDUCED (log 6). -/
def Obligations.FaultsArePrecise : Prop :=
  ∀ s t : State, step s = .next t → t.fault = none ∨ ∃ r, t.fault = some r ∧ r.pc = s.pc ∧
    ((r.opcode = none ∧ t = { s with fault := some r }) ∨
     (r.opcode = some s.opcodeAtPc ∧ t = { s with pc := s.pc + 2, fault := some r }))

/-- R251 (an inference the spec marks as its own): a step records at most one fault, at most one event, and never both. -/
def Obligations.FaultAndEventExclude : Prop :=
  ∀ s t : State, step s = .next t →
    (t.events = s.events ∨ ∃ e, t.events = s.events ++ [e]) ∧ (t.events ≠ s.events → t.fault = none)

/-! ## Control transfer -/

/-- 40_control_flow R126, R127, R130. -/
def Obligations.SkipOnImmediate : Prop :=
  ∀ (x : Reg) (nn : Byte) (s : State),
    Spells (.seImm x nn) 0x3000 0xF000 ∧ Spells (.sneImm x nn) 0x4000 0xF000 ∧
    exec (.seImm x nn) s = .next { s with pc := if s.reg x = nn then s.pc + 2 else s.pc } ∧
    exec (.sneImm x nn) s = .next { s with pc := if s.reg x ≠ nn then s.pc + 2 else s.pc }

/-- R128, R129, R130; with another low nibble the opcode is unknown (30_encoding R98; the spec's decision D16). -/
def Obligations.SkipOnRegisters : Prop :=
  ∀ (x y : Reg) (s : State),
    (∀ n : Fin 16, n ≠ 0 → decodeWord (wordXYN 0x5000 x y n.val) = none ∧ decodeWord (wordXYN 0x9000 x y n.val) = none) ∧
    Spells (.seReg x y) 0x5000 0xF00F ∧ Spells (.sneReg x y) 0x9000 0xF00F ∧
    exec (.seReg x y) s = .next { s with pc := if s.reg x = s.reg y then s.pc + 2 else s.pc } ∧
    exec (.sneReg x y) s = .next { s with pc := if s.reg x ≠ s.reg y then s.pc + 2 else s.pc }

/-- R124, R131: the two jumps; neither checks its target, and the sum is not reduced. The choice of the added register by
JUMP_OFFSET_REG is the spec's decision D10. -/
def Obligations.JumpsSetPc : Prop :=
  ∀ (nnn : Addr12) (s : State),
    Spells (.jp nnn) 0x1000 0xF000 ∧ Spells (.jpV0 nnn) 0xB000 0xF000 ∧
    (∃ p : Word, exec (.jp nnn) s = .next { s with pc := p } ∧ p.toNat = nnn.toNat) ∧
    (∃ p : Word, exec (.jpV0 nnn) s = .next { s with pc := p } ∧
      (s.params.jumpOffsetReg = .v0 → p.toNat = nnn.toNat + (s.reg 0).toNat) ∧
      (s.params.jumpOffsetReg = .vx → ∀ r : Reg, r.val = nnn.toNat / 256 → p.toNat = nnn.toNat + (s.reg r).toNat))

/-- R125; 60_exceptions R242: a call pushes the address after itself, or overflows a full stack; `Unbounded` never overflows. The bound
is the spec's decision D7. -/
def Obligations.CallPushesOrOverflows : Prop :=
  ∀ (nnn : Addr12) (s : State),
    Spells (.call nnn) 0x2000 0xF000 ∧
    (s.params.stackCapacity = .bounded s.stack.length → Faults (.call nnn) s .stackOverflow .nothing) ∧
    ((s.params.stackCapacity = .unbounded ∨ ∃ n, s.params.stackCapacity = .bounded n ∧ s.stack.length < n) →
      exec (.call nnn) s = .next { s with stack := s.stack ++ [s.pc], pc := nnn.setWidth 16 })

/-- R123; 60_exceptions R241: a return pops the last entry, or underflows an empty stack. -/
def Obligations.ReturnPopsOrUnderflows : Prop :=
  Spells .ret 0x00EE 0xFFFF ∧
  (∀ s : State, s.stack = [] → Faults .ret s .stackUnderflow .nothing) ∧
  (∀ (s : State) (below : List Word) (a : Word), s.stack = below ++ [a] →
    exec .ret s = .next { s with stack := below, pc := a })

/-- The source's property W7: from any state the callee leaves with the stack as it found it, a return comes back to the address after
the call (R123 corner case, an inference the spec marks as its own; R125). -/
def Obligations.ReturnComesBackAfterCall : Prop :=
  ∀ (nnn : Addr12) (s t u : State), s.fault = none → exec (.call nnn) s = .next t → t.fault = none → u.stack = t.stack →
    exec .ret u = .next { u with stack := s.stack, pc := s.pc }

/-! ## Register file and ALU -/

/-- 41_alu R151, R152, R153: VF changes only as the destination. -/
def Obligations.RegisterLoadsAndAddImmediate : Prop :=
  ∀ (x y : Reg) (nn : Byte) (s : State),
    Spells (.ldImm x nn) 0x6000 0xF000 ∧ Spells (.addImm x nn) 0x7000 0xF000 ∧ Spells (.ldReg x y) 0x8000 0xF00F ∧
    RegsBecome (.ldImm x nn) s (fun r => if r = x then nn else s.reg r) ∧
    RegsBecome (.addImm x nn) s (fun r => if r = x then BitVec.ofNat 8 ((s.reg x).toNat + nn.toNat) else s.reg r) ∧
    RegsBecome (.ldReg x y) s (fun r => if r = x then s.reg y else s.reg r)

/-- R154, R155, R156, bit by bit: VF changes only as the destination (that no flag is written is the spec's decision D12). -/
def Obligations.BitwiseOperations : Prop :=
  ∀ (x y : Reg) (s : State),
    Spells (.orReg x y) 0x8001 0xF00F ∧ Spells (.andReg x y) 0x8002 0xF00F ∧ Spells (.xorReg x y) 0x8003 0xF00F ∧
    ∃ o a e : Byte,
      (∀ k < 8, o.getLsbD k = ((s.reg x).getLsbD k || (s.reg y).getLsbD k)) ∧
      (∀ k < 8, a.getLsbD k = ((s.reg x).getLsbD k && (s.reg y).getLsbD k)) ∧
      (∀ k < 8, e.getLsbD k = ((s.reg x).getLsbD k ^^ (s.reg y).getLsbD k)) ∧
      RegsBecome (.orReg x y) s (fun r => if r = x then o else s.reg r) ∧
      RegsBecome (.andReg x y) s (fun r => if r = x then a else s.reg r) ∧
      RegsBecome (.xorReg x y) s (fun r => if r = x then e else s.reg r)

/-- R150: the two writes, under both settings of VF_WRITE_ORDER, at every register (the spec's decision D8). -/
def Obligations.FlagWriteOrder : Prop :=
  ∀ (s : State) (x : Reg) (res : Byte) (f : Bool),
    ∃ v' : Vector Byte 16, s.writeResultAndFlag x res f = { s with v := v' } ∧
      (s.params.vfWriteOrder = .flagLast → v'[15] = (if f then 1 else 0) ∧ (x ≠ vF → v'[x.val] = res)) ∧
      (s.params.vfWriteOrder = .resultLast → v'[x.val] = res ∧ (x ≠ vF → v'[15] = if f then 1 else 0)) ∧
      (∀ r : Reg, r ≠ x → r ≠ vF → v'[r.val] = s.reg r)

/-- R157: the sum modulo 256 and the carry; which write stands when x = F follows VF_WRITE_ORDER (R150; the spec's decision D8). -/
def Obligations.AddWithCarry : Prop :=
  ∀ (x y : Reg) (s : State), Spells (.addReg x y) 0x8004 0xF00F ∧
    RegsBecome (.addReg x y) s (flagWritten s x (BitVec.ofNat 8 ((s.reg x).toNat + (s.reg y).toNat))
      (if 255 < (s.reg x).toNat + (s.reg y).toNat then 1 else 0))

/-- R158, R160: the difference modulo 256; the flag is 1 when there is no borrow, so equality gives 1; x = F as in R150
(the spec's decision D8). -/
def Obligations.SubtractBothWays : Prop :=
  ∀ (x y : Reg) (s : State), Spells (.sub x y) 0x8005 0xF00F ∧ Spells (.subn x y) 0x8007 0xF00F ∧
    RegsBecome (.sub x y) s (flagWritten s x (BitVec.ofInt 8 (((s.reg x).toNat : Int) - (s.reg y).toNat))
      (if (s.reg y).toNat ≤ (s.reg x).toNat then 1 else 0)) ∧
    RegsBecome (.subn x y) s (flagWritten s x (BitVec.ofInt 8 (((s.reg y).toNat : Int) - (s.reg x).toNat))
      (if (s.reg x).toNat ≤ (s.reg y).toNat then 1 else 0))

/-- R159, R161: logical shifts by 1 of V[x] or V[y], by SHIFT_SOURCE; the flag is the bit shifted out, 0x00 or 0x01
(the spec's decisions D9, D38). -/
def Obligations.ShiftsByOne : Prop :=
  ∀ (x y src : Reg) (s : State),
    ((s.params.shiftSource = .vx ∧ src = x) ∨ (s.params.shiftSource = .vy ∧ src = y)) →
    Spells (.shr x y) 0x8006 0xF00F ∧ Spells (.shl x y) 0x800E 0xF00F ∧
    RegsBecome (.shr x y) s (flagWritten s x (BitVec.ofNat 8 ((s.reg src).toNat / 2)) (BitVec.ofNat 8 ((s.reg src).toNat % 2))) ∧
    RegsBecome (.shl x y) s (flagWritten s x (BitVec.ofNat 8 ((s.reg src).toNat * 2)) (BitVec.ofNat 8 ((s.reg src).toNat / 128)))

/-- R162: the drawn byte masked by nn, whatever the oracle answers; one draw is asked for. The count `draws` and the opaque
`Config.rand` are the model's own (log 2), and no value of either is used. -/
def Obligations.RandomByteIsMasked : Prop :=
  ∀ (x : Reg) (nn : Byte) (s : State), Spells (.rnd x nn) 0xC000 0xF000 ∧
    ∃ v' : Vector Byte 16, exec (.rnd x nn) s = .next { s with v := v', draws := s.draws + 1 } ∧
      v'[x.val] = Config.rand s.draws &&& nn ∧ (∀ k < 8, v'[x.val].getLsbD k = true → nn.getLsbD k = true) ∧
      (nn = 0 → v'[x.val] = 0) ∧ ∀ r : Reg, r ≠ x → v'[r.val] = s.reg r

/-! ## Index register and memory -/

/-- 42_index_memory R180, R181, R182: I is 16 bits wide, wraps at 65536, is not masked, and no flag is written. The
wrap and the missing mask are the spec's decisions D13, D14. -/
def Obligations.IndexRegisterWrites : Prop :=
  ∀ (x : Reg) (nnn : Addr12) (s : State),
    Spells (.ldI nnn) 0xA000 0xF000 ∧ Spells (.addI x) 0xF01E 0xF0FF ∧ Spells (.ldF x) 0xF029 0xF0FF ∧
    (∃ w : Word, exec (.ldI nnn) s = .next { s with i := w } ∧ w.toNat = nnn.toNat) ∧
    (∃ w : Word, exec (.addI x) s = .next { s with i := w } ∧ w.toNat = (s.i.toNat + (s.reg x).toNat) % 65536) ∧
    (∃ w : Word, exec (.ldF x) s = .next { s with i := w } ∧ w.toNat = (s.reg x).toNat * 5)

/-- R183: the three decimal digits at I, I + 1, I + 2 and no other byte, or a fault at the first address out of bounds
(the spec's decisions D5, D17). -/
def Obligations.StoreDecimalDigits : Prop :=
  ∀ (x : Reg) (s : State), Spells (.ldB x) 0xF033 0xF0FF ∧
    (s.base + 2 ≤ 0xFFF → MemBecomes (.ldB x) s fun a =>
      if a = s.base then BitVec.ofNat 8 ((s.reg x).toNat / 100)
      else if a = s.base + 1 then BitVec.ofNat 8 ((s.reg x).toNat / 10 % 10)
      else if a = s.base + 2 then BitVec.ofNat 8 ((s.reg x).toNat % 10)
      else s.mem.read a) ∧
    (∀ a, FirstOutOfBounds s.base 3 a → Faults (.ldB x) s .memoryOutOfBounds (.address a))

/-- R184: V0 to V[x] at I to I + x and no other byte, I unchanged, or a fault at the first address out of bounds
(the spec's decisions D5, D11, D17). -/
def Obligations.StoreRegisterBlock : Prop :=
  ∀ (x : Reg) (s : State), Spells (.store x) 0xF055 0xF0FF ∧
    (s.base + x.val ≤ 0xFFF → ∃ m' : Memory, exec (.store x) s = .next { s with mem := m' } ∧
      (∀ k : Reg, k ≤ x → m'.read (s.base + k.val) = s.reg k) ∧
      (∀ a, a < s.base ∨ s.base + x.val < a → m'.read a = s.mem.read a)) ∧
    (∀ a, FirstOutOfBounds s.base (x.val + 1) a → Faults (.store x) s .memoryOutOfBounds (.address a))

/-- R185: V0 to V[x] from I to I + x and no other register, I unchanged, or a fault at the first address out
of bounds (the spec's decisions D5, D11, D17). -/
def Obligations.LoadRegisterBlock : Prop :=
  ∀ (x : Reg) (s : State), Spells (.load x) 0xF065 0xF0FF ∧
    (s.base + x.val ≤ 0xFFF →
      RegsBecome (.load x) s fun r => if r ≤ x then s.mem.read (s.base + r.val) else s.reg r) ∧
    (∀ a, FirstOutOfBounds s.base (x.val + 1) a → Faults (.load x) s .memoryOutOfBounds (.address a))

/-- R186: a load with the same x right after a store that does not fault restores V0 to V[x]; here the registers may even have been
changed in between. -/
def Obligations.StoreThenLoadRestores : Prop :=
  ∀ (x : Reg) (s t : State) (v' : Vector Byte 16), s.fault = none → exec (.store x) s = .next t → t.fault = none →
    ∃ u : Vector Byte 16, exec (.load x) { t with v := v' } = .next { t with v := u } ∧ ∀ r : Reg, r ≤ x → u[r.val] = s.reg r

/-- 20_memory R74; 70_reset R289 (inferences the spec marks as its own): whatever bytes of the next opcode an `Fx55` or `Fx33` covers,
both, one or none, at an even PC or at an odd one under ODD_PC_POLICY = Fetch, the next fetch answers the opcode with the stored
bytes in place. -/
def Obligations.StoredCodeIsFetched : Prop :=
  ∀ (x : Reg) (s : State), (s.pc.toNat % 2 = 0 ∨ s.params.oddPcPolicy = .fetch) → s.pc.toNat + 1 ≤ 0xFFF →
    (s.base + x.val ≤ 0xFFF → ∃ t, exec (.store x) s = .next t ∧
      FetchesOver s t s.base ((List.ofFn fun r : Reg => s.reg r).take (x.val + 1))) ∧
    (s.base + 2 ≤ 0xFFF → ∃ t, exec (.ldB x) s = .next t ∧
      FetchesOver s t s.base [BitVec.ofNat 8 ((s.reg x).toNat / 100), BitVec.ofNat 8 ((s.reg x).toNat / 10 % 10),
        BitVec.ofNat 8 ((s.reg x).toNat % 10)])

/-- 20_memory R63, R64, R65: the two primitives, at every address (the spec's decision D5). The canonical form is the model's (log 7). -/
def Obligations.MemoryPrimitives : Prop :=
  ∀ (m : Memory) (a : Nat) (b : Byte),
    (0xFFF < a → memRead m a = .error a ∧ memWrite m a b = .error a) ∧
    (a ≤ 0xFFF → memRead m a = .ok (m.read a) ∧
      ∃ m', memWrite m a b = .ok m' ∧ m'.read a = b ∧ (∀ c, c ≠ a → m'.read c = m.read c) ∧ (m.wf → m'.wf))

/-! ## Display -/

/-- 43_display R200: blit toggles one pixel, leaves the others, and reports whether it was set. -/
def Obligations.BlitTogglesOnePixel : Prop :=
  ∀ (fb : Framebuffer) (px : Fin 64) (py : Fin 32),
    (blit fb px py).2 = fb.get px py ∧ (blit fb px py).1.get px py = !fb.get px py ∧
    ∀ (qx : Fin 64) (qy : Fin 32), (qx, qy) ≠ (px, py) → (blit fb px py).1.get qx qy = fb.get qx qy

/-- R201: every pixel false, VF and the rest unchanged. -/
def Obligations.ClearDisplay : Prop :=
  Spells .cls 0x00E0 0xFFFF ∧
  ∀ s : State, ∃ fb' : Framebuffer, exec .cls s = .next { s with fb := fb' } ∧ ∀ px py, fb'.get px py = false

/-- R202, R203: the closed form of a draw, for every n, x and y (VF too), or a fault at the first address out of bounds
(the spec's decisions D5, D19, D20 and its inference R203). -/
def Obligations.DrawIsXorWithCollision : Prop :=
  ∀ (x y : Reg) (n : RowCount) (s : State), Spells (.drw x y n) 0xD000 0xF000 ∧
    (n.val = 0 ∨ s.base + n.val - 1 ≤ 0xFFF →
      ∃ (fb' : Framebuffer) (v' : Vector Byte 16), exec (.drw x y n) s = .next { s with fb := fb', v := v' } ∧
        (∀ px py, fb'.get px py = true ↔
          Xor (s.fb.get px py = true)
            (SpriteCovers s.mem s.base n.val ((s.reg x).toNat % 64) ((s.reg y).toNat % 32) px py)) ∧
        ((∃ px py, s.fb.get px py = true ∧
            SpriteCovers s.mem s.base n.val ((s.reg x).toNat % 64) ((s.reg y).toNat % 32) px py) → v'[15] = 1) ∧
        ((¬ ∃ px py, s.fb.get px py = true ∧
            SpriteCovers s.mem s.base n.val ((s.reg x).toNat % 64) ((s.reg y).toNat % 32) px py) → v'[15] = 0) ∧
        (∀ r : Reg, r ≠ vF → v'[r.val] = s.reg r)) ∧
    (∀ a, FirstOutOfBounds s.base n.val a → Faults (.drw x y n) s .memoryOutOfBounds (.address a))

/-- R204: no program sees the framebuffer but through the collision flag: with another framebuffer an instruction leaves the same
state, but for FB itself and, after `Dxyn`, VF. -/
def Obligations.FramebufferSeenOnlyByCollision : Prop :=
  (∀ (i : Instr) (s t : State) (f : Framebuffer), exec i s = .next t → (∀ x y n, i ≠ .drw x y n) →
    exec i { s with fb := f } = .next { t with fb := if i = .cls then t.fb else f }) ∧
  (∀ (x y : Reg) (n : RowCount) (s t : State) (f : Framebuffer), exec (.drw x y n) s = .next t →
    ∃ (f' : Framebuffer) (b : Byte), exec (.drw x y n) { s with fb := f } = .next { t with fb := f', v := t.v.set 15 b })

/-! ## Keys and timers -/

/-- 44_input_timers R220, R221; 60_exceptions R244 (the fault is the spec's decision D15). -/
def Obligations.SkipOnKey : Prop :=
  ∀ (x : Reg) (s : State), Spells (.skp x) 0xE09E 0xF0FF ∧ Spells (.sknp x) 0xE0A1 0xF0FF ∧
    (∀ k : Fin 16, (s.reg x).toNat = k.val →
      exec (.skp x) s = .next { s with pc := if s.keys[k.val] = true then s.pc + 2 else s.pc } ∧
      exec (.sknp x) s = .next { s with pc := if s.keys[k.val] = true then s.pc else s.pc + 2 }) ∧
    (15 < (s.reg x).toNat →
      Faults (.skp x) s .keyIndexOutOfRange (.key (s.reg x)) ∧ Faults (.sknp x) s .keyIndexOutOfRange (.key (s.reg x)))

/-- R222: the smallest key that is down, held or new (the spec's decision D36), or the same instruction again. -/
def Obligations.WaitForKey : Prop :=
  ∀ (x : Reg) (s : State), Spells (.ldVxK x) 0xF00A 0xF0FF ∧
    (∀ k : Fin 16, s.keys[k.val] = true → (∀ j : Fin 16, j < k → s.keys[j.val] = false) →
      RegsBecome (.ldVxK x) s fun r => if r = x then BitVec.ofNat 8 k.val else s.reg r) ∧
    ((∀ k : Fin 16, s.keys[k.val] = false) →
      ∃ p : Word, exec (.ldVxK x) s = .next { s with pc := p } ∧ p.toNat = max (s.pc.toNat - 2) 0)

/-- R223, R224, R225: the three moves, and the effect of `Fx18` on the tone level. -/
def Obligations.TimerMoves : Prop :=
  ∀ (x : Reg) (s : State),
    Spells (.ldVxDt x) 0xF007 0xF0FF ∧ Spells (.ldDtVx x) 0xF015 0xF0FF ∧ Spells (.ldStVx x) 0xF018 0xF0FF ∧
    RegsBecome (.ldVxDt x) s (fun r => if r = x then s.dt else s.reg r) ∧
    exec (.ldDtVx x) s = .next { s with dt := s.reg x } ∧
    exec (.ldStVx x) s = .next { s with st := s.reg x } ∧
    ({ s with st := s.reg x } : State).tone = decide (s.reg x ≠ 0)

/-- 70_reset R292 (an inference the spec marks as its own): while no key is down, an `Fx0A` at PC uses up every step it is given and changes nothing. -/
def Obligations.UnsatisfiedWaitSpins : Prop :=
  ∀ (s : State) (x : Reg) (n : Nat), s.fault = none → s.pc.toNat % 2 = 0 → s.pc.toNat ≤ 0xFFE →
    decodeWord s.opcodeAtPc = some (.ldVxK x) → (∀ k : Fin 16, s.keys[k.val] = false) →
    step s = .next s ∧ stepUpTo n s = s

/-! ## Whole-machine rules -/

/-- 10_state R21: no instruction writes a general register but those listed there, and an unknown opcode writes none. -/
def Obligations.OnlyListedRegistersChange : Prop :=
  (∀ (i : Instr) (s t : State) (r : Reg), exec i s = .next t → t.reg r ≠ s.reg r → MayWriteReg i r) ∧
  (∀ (op : Word) (s : State) (r : Reg), (execUnknown op s).reg r = s.reg r)

/-- Who writes what, for the rest of the state (10_state R24, R25, R27, R29, R30, R31, R32, R35, R38; 20_memory R66;
00_scope R8). The counter `draws` is the model's own (log 2), and so is the place of the parameters in the state (log 1). -/
def Obligations.OnlyNamedInstructionsWrite : Prop :=
  ∀ (i : Instr) (s t : State), exec i s = .next t →
    (t.i ≠ s.i → MayWriteI i = true) ∧ (t.pc ≠ s.pc → MayWritePc i = true) ∧
    (t.stack ≠ s.stack → i = .ret ∨ ∃ nnn, i = .call nnn) ∧
    (t.dt ≠ s.dt → ∃ x, i = .ldDtVx x) ∧ (t.st ≠ s.st → ∃ x, i = .ldStVx x) ∧
    (t.fb ≠ s.fb → i = .cls ∨ ∃ x y n, i = .drw x y n) ∧
    ((∃ a, t.mem.read a ≠ s.mem.read a) → MayWriteMem i = true) ∧
    (t.draws ≠ s.draws → ∃ x nn, i = .rnd x nn) ∧
    t.keys = s.keys ∧ t.events = s.events ∧ t.params = s.params

/-- 10_state R30, R35: no instruction reads ST or the event log: with other contents there, it does the same to the rest. -/
def Obligations.SoundTimerAndLogUnread : Prop :=
  (∀ (i : Instr) (s t : State) (b : Byte), exec i s = .next t → (∀ x, i ≠ .ldStVx x) →
    exec i { s with st := b } = .next { t with st := b }) ∧
  (∀ (x : Reg) (s : State) (b : Byte), exec (.ldStVx x) { s with st := b } = exec (.ldStVx x) s) ∧
  (∀ (i : Instr) (s t : State) (es : List Event), exec i s = .next t →
    exec i { s with events := es } = .next { t with events := es })

/-- The invariant of the core (Safety.lean) is kept by every step. Its parts are 10_state R26, R28, R33 and 60_exceptions R240 to R250;
the memory form is the model's (log 7). -/
def Obligations.StepKeepsInvariant : Prop :=
  ∀ s t : State, s.Inv → step s = .next t → t.Inv

/-- The state after reset meets the invariant (10_state R39; the memory form is the model's, log 7). -/
def Obligations.ResetMeetsInvariant : Prop := State.reset.Inv

/-- Every state a host can bring the core to meets the invariant, for all parameters, fonts, images, key inputs and ticks
(60_exceptions R261, R269; the host's moves are those of log 13). -/
def Obligations.ReachableStatesMeetInvariant : Prop :=
  ∀ s : State, Reachable s → s.Inv

/-- Neither a step nor a host move changes the parameters (00_scope R8; 10_state R38; 70_reset R281). -/
def Obligations.ParametersNeverChange : Prop :=
  (∀ s t : State, step s = .next t → t.params = s.params) ∧
  (∀ (op : HostOp) (s : State), (op.apply s).1.params = s.params)

/-! ## Reset, load and the host -/

/-- 10_state R39; 70_reset R280: every piece of state after reset, for any setting of the parameters and any FONT; with the defaults it
is `State.reset`. That the state carries the parameters is the model's (log 1). The values of V, I, K, `fault` and `events` are the spec's decisions D1, D2, D3, D17, D30 (log 4), those of the font
D4 (log 3). -/
def Obligations.ResetValues : Prop :=
  (∀ (p : Params) (font : Font),
    (∀ r : Reg, (State.resetWith p font).reg r = 0) ∧ (State.resetWith p font).i = 0 ∧
    (State.resetWith p font).pc = 0x200 ∧ (State.resetWith p font).stack = [] ∧
    (State.resetWith p font).dt = 0 ∧ (State.resetWith p font).st = 0 ∧
    (∀ k : Fin 16, (State.resetWith p font).keys[k.val] = false) ∧
    (∀ px py, (State.resetWith p font).fb.get px py = false) ∧
    (∀ a : Fin 80, (State.resetWith p font).mem.read a.val = font[a.val]) ∧
    (∀ a, 0x50 ≤ a → (State.resetWith p font).mem.read a = 0) ∧
    (State.resetWith p font).fault = none ∧ (State.resetWith p font).events = [] ∧ (State.resetWith p font).params = p) ∧
  State.resetWith Params.default defaultFont = State.reset

/-- 70_reset R283, R284: the image at 0x200 byte for byte and nothing else, or CapacityExceeded above 3584 bytes (the spec's decision D28). -/
def Obligations.LoadCopiesImage : Prop :=
  ∀ (bytes : List Byte) (s : State),
    (3584 < bytes.length → load bytes s = .error .capacityExceeded) ∧
    (bytes.length ≤ 3584 → ∃ m' : Memory, load bytes s = .ok { s with mem := m' } ∧
      (∀ k (h : k < bytes.length), m'.read (0x200 + k) = bytes[k]) ∧
      (∀ a, a < 0x200 ∨ 0x200 + bytes.length ≤ a → m'.read a = s.mem.read a))

/-- 60_exceptions R254: each timer goes down by 1 and stops at 0, independently; nothing else changes. -/
def Obligations.TickCountsDown : Prop :=
  ∀ s : State, ∃ d e : Byte, tick s = { s with dt := d, st := e } ∧ d.toNat = s.dt.toNat - 1 ∧ e.toNat = s.st.toNat - 1

/-- 60_exceptions R262: the snapshot is replaced whole and nothing else changes. -/
def Obligations.SetKeysReplacesSnapshot : Prop :=
  ∀ (k : KeySnapshot) (s : State), hostSetKeys k s = { s with keys := k }

/-- 60_exceptions R255: the edges that `Fx18` and a tick make in the tone level (the spec's decision D29). -/
def Obligations.ToneEdges : Prop :=
  (∀ s : State, s.tone = true ↔ s.st ≠ 0) ∧
  (∀ (x : Reg) (s t : State), exec (.ldStVx x) s = .next t →
    (s.st = 0 → s.reg x ≠ 0 → toneEdge s.tone t.tone = some .start) ∧
    (s.st ≠ 0 → s.reg x = 0 → toneEdge s.tone t.tone = some .stop) ∧
    (s.st ≠ 0 → s.reg x ≠ 0 → toneEdge s.tone t.tone = none)) ∧
  (∀ s : State, (s.st = 1 → toneEdge s.tone (tick s).tone = some .stop) ∧ (s.st ≠ 1 → toneEdge s.tone (tick s).tone = none))

/-- 60_exceptions R270: on a halted core `step` does nothing, every other operation acts as on a running core, and the record stays
(the spec's decision D33). -/
def Obligations.HostOperationsOnHaltedCore : Prop :=
  ∀ (s : State) (r : FaultRecord), s.fault = some r →
    (HostOp.step.apply s).1 = s ∧ HostOp.fault.apply s = (s, .record (some r)) ∧
    ∀ op : HostOp, (op.apply s).1.fault = some r ∧
      (op ≠ .step → op ≠ .fault →
        op.apply s = ({ (op.apply { s with fault := none }).1 with fault := some r }, (op.apply { s with fault := none }).2))

/-- 60_exceptions R268: a frame is set_keys, IPF requests to step (which do nothing once the core has halted), tick, framebuffer,
tone sample (the spec's decision D25). -/
def Obligations.FrameSequence : Prop :=
  ∀ (ipf : Nat) (k : KeySnapshot) (s : State),
    frame ipf k s =
      (tick (hostStep^[ipf] { s with keys := k }),
        ⟨(tick (hostStep^[ipf] { s with keys := k })).fb, (tick (hostStep^[ipf] { s with keys := k })).tone⟩)

/-- 60_exceptions R267: at a terminal loop a step changes nothing, and whatever the host does the core stays at the loop with only
keys and timers changed (the spec's decision D34 and its inference). -/
def Obligations.TerminalLoopStays : Prop :=
  ∀ s : State, s.fault = none → s.atTerminalLoop = true →
    step s = .next s ∧
    ∀ op : HostOp, (op.apply s).1.atTerminalLoop = true ∧
      (op.apply s).1 = { s with keys := (op.apply s).1.keys, dt := (op.apply s).1.dt, st := (op.apply s).1.st }

/-- 60_exceptions R266: the host keeps IPF within its clamp range (the spec's decision D26; the clamp itself is the model's, log 14). -/
def Obligations.BudgetStaysInRange : Prop :=
  ∀ (b : FrameBudget) (wanted : Nat), b.ipfMin ≤ b.ipfMax →
    (b.adjust wanted).wellFormed = true ∧ (b.ipfMin ≤ wanted → wanted ≤ b.ipfMax → (b.adjust wanted).ipf = wanted)

/-- 30_encoding R101, R102: an instruction line puts its opcode, high byte first, at the next even address; the pseudo-instructions are
the shifts with V0, opcodes 8x06 and 8x0E; `DB` emits its bytes (the spec's decision D27). The value of a padding byte, the model's
choice (log 15), is left free. -/
def Obligations.PseudoInstructionsAssemble : Prop :=
  (∀ op : Word, (bytesOfWord op).map BitVec.toNat = [op.toNat / 256, op.toNat % 256]) ∧
  (∀ (a : Nat) (i : Instr) (rest : List AsmLine), ∃ pad : List Byte, pad.length < 2 ∧ (a + pad.length) % 2 = 0 ∧
    assembleAt a (.instr i :: rest) = pad ++ bytesOfWord (encode i) ++ assembleAt (a + pad.length + 2) rest) ∧
  (∀ (a : Nat) (x : Reg) (bs : List Byte) (rest : List AsmLine),
    assembleAt a (.shrOne x :: rest) = assembleAt a (.instr (.shr x 0) :: rest) ∧
    assembleAt a (.shlOne x :: rest) = assembleAt a (.instr (.shl x 0) :: rest) ∧
    (encode (.shr x 0)).toNat = 0x8006 + x.val * 0x100 ∧ (encode (.shl x 0)).toNat = 0x800E + x.val * 0x100 ∧
    assembleAt a (.db bs :: rest) = bs ++ assembleAt (a + bs.length) rest)
end

