-- ==== Sys2Proof/Laws/Decode.lean ====
section
/-! SUPPORT. The small lemmas of the encoding: what an assembled word is worth, and each field read back from it (30_encoding R90). -/

namespace Sys2Proof

theorem slice_lt (op : Word) (hi lo : Nat) : slice op hi lo < 2 ^ (hi + 1 - lo) := Nat.mod_lt _ (Nat.two_pow_pos _)

/-! ## Masking an opcode -/

theorem and_family (w : Word) : w &&& 0xF000#16 = (w >>> 12) <<< 12 := by
  apply BitVec.eq_of_getLsbD_eq
  intro i hi
  interval_cases i <;> simp

/-- An opcode masked by 0xF000 and the lowest `k` bits keeps its family and those bits. -/
theorem toNat_and_mask (w low : Word) (k : Nat) (hk : k ≤ 12) (hl : low.toNat = 2 ^ k - 1) :
    (w &&& (0xF000#16 ||| low)).toNat = w.toNat / 4096 * 4096 + w.toNat % 2 ^ k := by
  have h1 : (w &&& low).toNat = w.toNat % 2 ^ k := by
    rw [BitVec.toNat_and, hl]; exact Nat.and_two_pow_sub_one_eq_mod _ k
  have hp : 2 ^ k ≤ 2 ^ 12 := Nat.pow_le_pow_right (by decide) hk
  have hm : w.toNat % 2 ^ k < 2 ^ k := Nat.mod_lt _ (Nat.two_pow_pos k)
  have hw := w.isLt
  have hs : ((w >>> 12) <<< 12 : Word).toNat = 2 ^ 12 * (w.toNat / 4096) := by
    simp only [BitVec.toNat_shiftLeft, BitVec.toNat_ushiftRight, Nat.shiftRight_eq_div_pow, Nat.shiftLeft_eq]
    omega
  rw [show w &&& (0xF000#16 ||| low) = (w &&& 0xF000#16) ||| (w &&& low) by
      apply BitVec.eq_of_getLsbD_eq; intro i hi; simp only [BitVec.getLsbD_and, BitVec.getLsbD_or]
      cases w.getLsbD i <;> simp, and_family, BitVec.toNat_or, hs, h1,
    ← Nat.two_pow_add_eq_or_of_lt (Nat.lt_of_lt_of_le hm hp)]
  omega

theorem toNat_and_F000 (w : Word) : (w &&& 0xF000#16).toNat = w.toNat / 4096 * 4096 := by
  have := toNat_and_mask w 0 0 (by decide) rfl
  simpa [Nat.mod_one] using this

theorem toNat_and_F00F (w : Word) : (w &&& 0xF00F#16).toNat = w.toNat / 4096 * 4096 + w.toNat % 16 :=
  toNat_and_mask w 0x000F#16 4 (by decide) rfl

theorem toNat_and_F0FF (w : Word) : (w &&& 0xF0FF#16).toNat = w.toNat / 4096 * 4096 + w.toNat % 256 :=
  toNat_and_mask w 0x00FF#16 8 (by decide) rfl

/-! ## The words the encoder builds -/

theorem toNat_wordXYN {base n : Nat} (x y : Reg) (hb : base ≤ 0xF000) (hn : n < 16) :
    (wordXYN base x y n).toNat = base + x.val * 0x100 + y.val * 0x10 + n := by
  rw [wordXYN, BitVec.toNat_ofNat, Nat.mod_eq_of_lt]; omega

theorem toNat_wordXNN {base n : Nat} (x : Reg) (hb : base ≤ 0xF000) (hn : n < 256) :
    (wordXNN base x n).toNat = base + x.val * 0x100 + n := by
  rw [wordXNN, BitVec.toNat_ofNat, Nat.mod_eq_of_lt]; omega

theorem toNat_wordNNN {base : Nat} (nnn : Addr12) (hb : base ≤ 0xF000) : (wordNNN base nnn).toNat = base + nnn.toNat := by
  rw [wordNNN, BitVec.toNat_ofNat, Nat.mod_eq_of_lt]; omega

/-! ## The fields of those words, for a family `f` -/

variable (f : Nat) (hf : f < 16)
include hf

theorem fieldInst_wordXYN (x y : Reg) {n : Nat} (hn : n < 16) : fieldInst (wordXYN (f * 0x1000) x y n) = f := by
  simp only [fieldInst, slice, toNat_wordXYN x y (show f * 0x1000 ≤ 0xF000 by omega) hn]; omega

theorem fieldInst_wordXNN (x : Reg) {n : Nat} (hn : n < 256) : fieldInst (wordXNN (f * 0x1000) x n) = f := by
  simp only [fieldInst, slice, toNat_wordXNN x (show f * 0x1000 ≤ 0xF000 by omega) hn]; omega

theorem fieldInst_wordNNN (nnn : Addr12) : fieldInst (wordNNN (f * 0x1000) nnn) = f := by
  simp only [fieldInst, slice, toNat_wordNNN nnn (show f * 0x1000 ≤ 0xF000 by omega)]; omega

theorem fieldX_wordXYN (x y : Reg) {n : Nat} (hn : n < 16) : fieldX (wordXYN (f * 0x1000) x y n) = x := by
  apply Fin.ext
  simp only [fieldX, slice, toNat_wordXYN x y (show f * 0x1000 ≤ 0xF000 by omega) hn, Fin.val_ofNat]; omega

theorem fieldX_wordXNN (x : Reg) {n : Nat} (hn : n < 256) : fieldX (wordXNN (f * 0x1000) x n) = x := by
  apply Fin.ext
  simp only [fieldX, slice, toNat_wordXNN x (show f * 0x1000 ≤ 0xF000 by omega) hn, Fin.val_ofNat]; omega

theorem fieldY_wordXYN (x y : Reg) {n : Nat} (hn : n < 16) : fieldY (wordXYN (f * 0x1000) x y n) = y := by
  apply Fin.ext
  simp only [fieldY, slice, toNat_wordXYN x y (show f * 0x1000 ≤ 0xF000 by omega) hn, Fin.val_ofNat]; omega

theorem selectorN_wordXYN (x y : Reg) {n : Nat} (hn : n < 16) : slice (wordXYN (f * 0x1000) x y n) 3 0 = n := by
  simp only [slice, toNat_wordXYN x y (show f * 0x1000 ≤ 0xF000 by omega) hn]; omega

theorem selectorNN_wordXNN (x : Reg) {n : Nat} (hn : n < 256) : slice (wordXNN (f * 0x1000) x n) 7 0 = n := by
  simp only [slice, toNat_wordXNN x (show f * 0x1000 ≤ 0xF000 by omega) hn]; omega

theorem fieldNN_wordXNN (x : Reg) (nn : Byte) : fieldNN (wordXNN (f * 0x1000) x nn.toNat) = nn := by
  rw [fieldNN, selectorNN_wordXNN f hf x nn.isLt, BitVec.ofNat_toNat]
  simp

theorem fieldN_wordXYN (x y : Reg) (n : RowCount) : fieldN (wordXYN (f * 0x1000) x y n.val) = n := by
  rw [fieldN, selectorN_wordXYN f hf x y n.isLt]; simp

theorem fieldNNN_wordNNN (nnn : Addr12) : fieldNNN (wordNNN (f * 0x1000) nnn) = nnn := by
  have h := nnn.isLt
  apply BitVec.eq_of_toNat_eq
  simp only [fieldNNN, slice, toNat_wordNNN nnn (show f * 0x1000 ≤ 0xF000 by omega), BitVec.toNat_ofNat]; omega

end Sys2Proof
end

