-- ==== Sys2Proof/Laws/State.lean ====
section
/-! SUPPORT. One lemma per field per named update of the state, each true by unfolding, so that no later proof unfolds an update. -/

namespace Sys2Proof.Machine

variable (s : State)


/-! ### setReg -/

@[simp] theorem setReg_v (r : Reg) (b : Byte) : (s.setReg r b).v = s.v.set r.val b := rfl
@[simp] theorem setReg_i (r : Reg) (b : Byte) : (s.setReg r b).i = s.i := rfl
@[simp] theorem setReg_pc (r : Reg) (b : Byte) : (s.setReg r b).pc = s.pc := rfl
@[simp] theorem setReg_stack (r : Reg) (b : Byte) : (s.setReg r b).stack = s.stack := rfl
@[simp] theorem setReg_dt (r : Reg) (b : Byte) : (s.setReg r b).dt = s.dt := rfl
@[simp] theorem setReg_st (r : Reg) (b : Byte) : (s.setReg r b).st = s.st := rfl
@[simp] theorem setReg_keys (r : Reg) (b : Byte) : (s.setReg r b).keys = s.keys := rfl
@[simp] theorem setReg_fb (r : Reg) (b : Byte) : (s.setReg r b).fb = s.fb := rfl
@[simp] theorem setReg_mem (r : Reg) (b : Byte) : (s.setReg r b).mem = s.mem := rfl
@[simp] theorem setReg_fault (r : Reg) (b : Byte) : (s.setReg r b).fault = s.fault := rfl
@[simp] theorem setReg_events (r : Reg) (b : Byte) : (s.setReg r b).events = s.events := rfl
@[simp] theorem setReg_params (r : Reg) (b : Byte) : (s.setReg r b).params = s.params := rfl
@[simp] theorem setReg_draws (r : Reg) (b : Byte) : (s.setReg r b).draws = s.draws := rfl

/-! ### setLowRegs -/

@[simp] theorem setLowRegs_v (bs : List Byte) : (s.setLowRegs bs).v = writeRegs s.v 0 bs := rfl
@[simp] theorem setLowRegs_i (bs : List Byte) : (s.setLowRegs bs).i = s.i := rfl
@[simp] theorem setLowRegs_pc (bs : List Byte) : (s.setLowRegs bs).pc = s.pc := rfl
@[simp] theorem setLowRegs_stack (bs : List Byte) : (s.setLowRegs bs).stack = s.stack := rfl
@[simp] theorem setLowRegs_dt (bs : List Byte) : (s.setLowRegs bs).dt = s.dt := rfl
@[simp] theorem setLowRegs_st (bs : List Byte) : (s.setLowRegs bs).st = s.st := rfl
@[simp] theorem setLowRegs_keys (bs : List Byte) : (s.setLowRegs bs).keys = s.keys := rfl
@[simp] theorem setLowRegs_fb (bs : List Byte) : (s.setLowRegs bs).fb = s.fb := rfl
@[simp] theorem setLowRegs_mem (bs : List Byte) : (s.setLowRegs bs).mem = s.mem := rfl
@[simp] theorem setLowRegs_fault (bs : List Byte) : (s.setLowRegs bs).fault = s.fault := rfl
@[simp] theorem setLowRegs_events (bs : List Byte) : (s.setLowRegs bs).events = s.events := rfl
@[simp] theorem setLowRegs_params (bs : List Byte) : (s.setLowRegs bs).params = s.params := rfl
@[simp] theorem setLowRegs_draws (bs : List Byte) : (s.setLowRegs bs).draws = s.draws := rfl

/-! ### setI -/

@[simp] theorem setI_v (w : Word) : (s.setI w).v = s.v := rfl
@[simp] theorem setI_i (w : Word) : (s.setI w).i = w := rfl
@[simp] theorem setI_pc (w : Word) : (s.setI w).pc = s.pc := rfl
@[simp] theorem setI_stack (w : Word) : (s.setI w).stack = s.stack := rfl
@[simp] theorem setI_dt (w : Word) : (s.setI w).dt = s.dt := rfl
@[simp] theorem setI_st (w : Word) : (s.setI w).st = s.st := rfl
@[simp] theorem setI_keys (w : Word) : (s.setI w).keys = s.keys := rfl
@[simp] theorem setI_fb (w : Word) : (s.setI w).fb = s.fb := rfl
@[simp] theorem setI_mem (w : Word) : (s.setI w).mem = s.mem := rfl
@[simp] theorem setI_fault (w : Word) : (s.setI w).fault = s.fault := rfl
@[simp] theorem setI_events (w : Word) : (s.setI w).events = s.events := rfl
@[simp] theorem setI_params (w : Word) : (s.setI w).params = s.params := rfl
@[simp] theorem setI_draws (w : Word) : (s.setI w).draws = s.draws := rfl

/-! ### setPc -/

@[simp] theorem setPc_v (w : Word) : (s.setPc w).v = s.v := rfl
@[simp] theorem setPc_i (w : Word) : (s.setPc w).i = s.i := rfl
@[simp] theorem setPc_pc (w : Word) : (s.setPc w).pc = w := rfl
@[simp] theorem setPc_stack (w : Word) : (s.setPc w).stack = s.stack := rfl
@[simp] theorem setPc_dt (w : Word) : (s.setPc w).dt = s.dt := rfl
@[simp] theorem setPc_st (w : Word) : (s.setPc w).st = s.st := rfl
@[simp] theorem setPc_keys (w : Word) : (s.setPc w).keys = s.keys := rfl
@[simp] theorem setPc_fb (w : Word) : (s.setPc w).fb = s.fb := rfl
@[simp] theorem setPc_mem (w : Word) : (s.setPc w).mem = s.mem := rfl
@[simp] theorem setPc_fault (w : Word) : (s.setPc w).fault = s.fault := rfl
@[simp] theorem setPc_events (w : Word) : (s.setPc w).events = s.events := rfl
@[simp] theorem setPc_params (w : Word) : (s.setPc w).params = s.params := rfl
@[simp] theorem setPc_draws (w : Word) : (s.setPc w).draws = s.draws := rfl

/-! ### setDt -/

@[simp] theorem setDt_v (b : Byte) : (s.setDt b).v = s.v := rfl
@[simp] theorem setDt_i (b : Byte) : (s.setDt b).i = s.i := rfl
@[simp] theorem setDt_pc (b : Byte) : (s.setDt b).pc = s.pc := rfl
@[simp] theorem setDt_stack (b : Byte) : (s.setDt b).stack = s.stack := rfl
@[simp] theorem setDt_dt (b : Byte) : (s.setDt b).dt = b := rfl
@[simp] theorem setDt_st (b : Byte) : (s.setDt b).st = s.st := rfl
@[simp] theorem setDt_keys (b : Byte) : (s.setDt b).keys = s.keys := rfl
@[simp] theorem setDt_fb (b : Byte) : (s.setDt b).fb = s.fb := rfl
@[simp] theorem setDt_mem (b : Byte) : (s.setDt b).mem = s.mem := rfl
@[simp] theorem setDt_fault (b : Byte) : (s.setDt b).fault = s.fault := rfl
@[simp] theorem setDt_events (b : Byte) : (s.setDt b).events = s.events := rfl
@[simp] theorem setDt_params (b : Byte) : (s.setDt b).params = s.params := rfl
@[simp] theorem setDt_draws (b : Byte) : (s.setDt b).draws = s.draws := rfl

/-! ### setSt -/

@[simp] theorem setSt_v (b : Byte) : (s.setSt b).v = s.v := rfl
@[simp] theorem setSt_i (b : Byte) : (s.setSt b).i = s.i := rfl
@[simp] theorem setSt_pc (b : Byte) : (s.setSt b).pc = s.pc := rfl
@[simp] theorem setSt_stack (b : Byte) : (s.setSt b).stack = s.stack := rfl
@[simp] theorem setSt_dt (b : Byte) : (s.setSt b).dt = s.dt := rfl
@[simp] theorem setSt_st (b : Byte) : (s.setSt b).st = b := rfl
@[simp] theorem setSt_keys (b : Byte) : (s.setSt b).keys = s.keys := rfl
@[simp] theorem setSt_fb (b : Byte) : (s.setSt b).fb = s.fb := rfl
@[simp] theorem setSt_mem (b : Byte) : (s.setSt b).mem = s.mem := rfl
@[simp] theorem setSt_fault (b : Byte) : (s.setSt b).fault = s.fault := rfl
@[simp] theorem setSt_events (b : Byte) : (s.setSt b).events = s.events := rfl
@[simp] theorem setSt_params (b : Byte) : (s.setSt b).params = s.params := rfl
@[simp] theorem setSt_draws (b : Byte) : (s.setSt b).draws = s.draws := rfl

/-! ### setKeys -/

@[simp] theorem setKeys_v (k : KeySnapshot) : (s.setKeys k).v = s.v := rfl
@[simp] theorem setKeys_i (k : KeySnapshot) : (s.setKeys k).i = s.i := rfl
@[simp] theorem setKeys_pc (k : KeySnapshot) : (s.setKeys k).pc = s.pc := rfl
@[simp] theorem setKeys_stack (k : KeySnapshot) : (s.setKeys k).stack = s.stack := rfl
@[simp] theorem setKeys_dt (k : KeySnapshot) : (s.setKeys k).dt = s.dt := rfl
@[simp] theorem setKeys_st (k : KeySnapshot) : (s.setKeys k).st = s.st := rfl
@[simp] theorem setKeys_keys (k : KeySnapshot) : (s.setKeys k).keys = k := rfl
@[simp] theorem setKeys_fb (k : KeySnapshot) : (s.setKeys k).fb = s.fb := rfl
@[simp] theorem setKeys_mem (k : KeySnapshot) : (s.setKeys k).mem = s.mem := rfl
@[simp] theorem setKeys_fault (k : KeySnapshot) : (s.setKeys k).fault = s.fault := rfl
@[simp] theorem setKeys_events (k : KeySnapshot) : (s.setKeys k).events = s.events := rfl
@[simp] theorem setKeys_params (k : KeySnapshot) : (s.setKeys k).params = s.params := rfl
@[simp] theorem setKeys_draws (k : KeySnapshot) : (s.setKeys k).draws = s.draws := rfl

/-! ### setFb -/

@[simp] theorem setFb_v (f : Framebuffer) : (s.setFb f).v = s.v := rfl
@[simp] theorem setFb_i (f : Framebuffer) : (s.setFb f).i = s.i := rfl
@[simp] theorem setFb_pc (f : Framebuffer) : (s.setFb f).pc = s.pc := rfl
@[simp] theorem setFb_stack (f : Framebuffer) : (s.setFb f).stack = s.stack := rfl
@[simp] theorem setFb_dt (f : Framebuffer) : (s.setFb f).dt = s.dt := rfl
@[simp] theorem setFb_st (f : Framebuffer) : (s.setFb f).st = s.st := rfl
@[simp] theorem setFb_keys (f : Framebuffer) : (s.setFb f).keys = s.keys := rfl
@[simp] theorem setFb_fb (f : Framebuffer) : (s.setFb f).fb = f := rfl
@[simp] theorem setFb_mem (f : Framebuffer) : (s.setFb f).mem = s.mem := rfl
@[simp] theorem setFb_fault (f : Framebuffer) : (s.setFb f).fault = s.fault := rfl
@[simp] theorem setFb_events (f : Framebuffer) : (s.setFb f).events = s.events := rfl
@[simp] theorem setFb_params (f : Framebuffer) : (s.setFb f).params = s.params := rfl
@[simp] theorem setFb_draws (f : Framebuffer) : (s.setFb f).draws = s.draws := rfl

/-! ### setMem -/

@[simp] theorem setMem_v (m : Memory) : (s.setMem m).v = s.v := rfl
@[simp] theorem setMem_i (m : Memory) : (s.setMem m).i = s.i := rfl
@[simp] theorem setMem_pc (m : Memory) : (s.setMem m).pc = s.pc := rfl
@[simp] theorem setMem_stack (m : Memory) : (s.setMem m).stack = s.stack := rfl
@[simp] theorem setMem_dt (m : Memory) : (s.setMem m).dt = s.dt := rfl
@[simp] theorem setMem_st (m : Memory) : (s.setMem m).st = s.st := rfl
@[simp] theorem setMem_keys (m : Memory) : (s.setMem m).keys = s.keys := rfl
@[simp] theorem setMem_fb (m : Memory) : (s.setMem m).fb = s.fb := rfl
@[simp] theorem setMem_mem (m : Memory) : (s.setMem m).mem = m := rfl
@[simp] theorem setMem_fault (m : Memory) : (s.setMem m).fault = s.fault := rfl
@[simp] theorem setMem_events (m : Memory) : (s.setMem m).events = s.events := rfl
@[simp] theorem setMem_params (m : Memory) : (s.setMem m).params = s.params := rfl
@[simp] theorem setMem_draws (m : Memory) : (s.setMem m).draws = s.draws := rfl

/-! ### setStack -/

@[simp] theorem setStack_v (l : List Word) : (s.setStack l).v = s.v := rfl
@[simp] theorem setStack_i (l : List Word) : (s.setStack l).i = s.i := rfl
@[simp] theorem setStack_pc (l : List Word) : (s.setStack l).pc = s.pc := rfl
@[simp] theorem setStack_stack (l : List Word) : (s.setStack l).stack = l := rfl
@[simp] theorem setStack_dt (l : List Word) : (s.setStack l).dt = s.dt := rfl
@[simp] theorem setStack_st (l : List Word) : (s.setStack l).st = s.st := rfl
@[simp] theorem setStack_keys (l : List Word) : (s.setStack l).keys = s.keys := rfl
@[simp] theorem setStack_fb (l : List Word) : (s.setStack l).fb = s.fb := rfl
@[simp] theorem setStack_mem (l : List Word) : (s.setStack l).mem = s.mem := rfl
@[simp] theorem setStack_fault (l : List Word) : (s.setStack l).fault = s.fault := rfl
@[simp] theorem setStack_events (l : List Word) : (s.setStack l).events = s.events := rfl
@[simp] theorem setStack_params (l : List Word) : (s.setStack l).params = s.params := rfl
@[simp] theorem setStack_draws (l : List Word) : (s.setStack l).draws = s.draws := rfl

/-! ### countDraw -/

@[simp] theorem countDraw_v : (s.countDraw).v = s.v := rfl
@[simp] theorem countDraw_i : (s.countDraw).i = s.i := rfl
@[simp] theorem countDraw_pc : (s.countDraw).pc = s.pc := rfl
@[simp] theorem countDraw_stack : (s.countDraw).stack = s.stack := rfl
@[simp] theorem countDraw_dt : (s.countDraw).dt = s.dt := rfl
@[simp] theorem countDraw_st : (s.countDraw).st = s.st := rfl
@[simp] theorem countDraw_keys : (s.countDraw).keys = s.keys := rfl
@[simp] theorem countDraw_fb : (s.countDraw).fb = s.fb := rfl
@[simp] theorem countDraw_mem : (s.countDraw).mem = s.mem := rfl
@[simp] theorem countDraw_fault : (s.countDraw).fault = s.fault := rfl
@[simp] theorem countDraw_events : (s.countDraw).events = s.events := rfl
@[simp] theorem countDraw_params : (s.countDraw).params = s.params := rfl
@[simp] theorem countDraw_draws : (s.countDraw).draws = s.draws + 1 := rfl

/-! ### push -/

@[simp] theorem push_v (w : Word) : (s.push w).v = s.v := rfl
@[simp] theorem push_i (w : Word) : (s.push w).i = s.i := rfl
@[simp] theorem push_pc (w : Word) : (s.push w).pc = s.pc := rfl
@[simp] theorem push_stack (w : Word) : (s.push w).stack = s.stack ++ [w] := rfl
@[simp] theorem push_dt (w : Word) : (s.push w).dt = s.dt := rfl
@[simp] theorem push_st (w : Word) : (s.push w).st = s.st := rfl
@[simp] theorem push_keys (w : Word) : (s.push w).keys = s.keys := rfl
@[simp] theorem push_fb (w : Word) : (s.push w).fb = s.fb := rfl
@[simp] theorem push_mem (w : Word) : (s.push w).mem = s.mem := rfl
@[simp] theorem push_fault (w : Word) : (s.push w).fault = s.fault := rfl
@[simp] theorem push_events (w : Word) : (s.push w).events = s.events := rfl
@[simp] theorem push_params (w : Word) : (s.push w).params = s.params := rfl
@[simp] theorem push_draws (w : Word) : (s.push w).draws = s.draws := rfl

/-! ### drop -/

@[simp] theorem drop_v : (s.drop).v = s.v := rfl
@[simp] theorem drop_i : (s.drop).i = s.i := rfl
@[simp] theorem drop_pc : (s.drop).pc = s.pc := rfl
@[simp] theorem drop_stack : (s.drop).stack = s.stack.dropLast := rfl
@[simp] theorem drop_dt : (s.drop).dt = s.dt := rfl
@[simp] theorem drop_st : (s.drop).st = s.st := rfl
@[simp] theorem drop_keys : (s.drop).keys = s.keys := rfl
@[simp] theorem drop_fb : (s.drop).fb = s.fb := rfl
@[simp] theorem drop_mem : (s.drop).mem = s.mem := rfl
@[simp] theorem drop_fault : (s.drop).fault = s.fault := rfl
@[simp] theorem drop_events : (s.drop).events = s.events := rfl
@[simp] theorem drop_params : (s.drop).params = s.params := rfl
@[simp] theorem drop_draws : (s.drop).draws = s.draws := rfl

/-! ### advancePc -/

@[simp] theorem advancePc_v : (s.advancePc).v = s.v := rfl
@[simp] theorem advancePc_i : (s.advancePc).i = s.i := rfl
@[simp] theorem advancePc_pc : (s.advancePc).pc = s.pc + 2 := rfl
@[simp] theorem advancePc_stack : (s.advancePc).stack = s.stack := rfl
@[simp] theorem advancePc_dt : (s.advancePc).dt = s.dt := rfl
@[simp] theorem advancePc_st : (s.advancePc).st = s.st := rfl
@[simp] theorem advancePc_keys : (s.advancePc).keys = s.keys := rfl
@[simp] theorem advancePc_fb : (s.advancePc).fb = s.fb := rfl
@[simp] theorem advancePc_mem : (s.advancePc).mem = s.mem := rfl
@[simp] theorem advancePc_fault : (s.advancePc).fault = s.fault := rfl
@[simp] theorem advancePc_events : (s.advancePc).events = s.events := rfl
@[simp] theorem advancePc_params : (s.advancePc).params = s.params := rfl
@[simp] theorem advancePc_draws : (s.advancePc).draws = s.draws := rfl

/-! ### takeFault -/

@[simp] theorem takeFault_v (r : FaultRecord) : (takeFault r s).v = s.v := rfl
@[simp] theorem takeFault_i (r : FaultRecord) : (takeFault r s).i = s.i := rfl
@[simp] theorem takeFault_pc (r : FaultRecord) : (takeFault r s).pc = s.pc := rfl
@[simp] theorem takeFault_stack (r : FaultRecord) : (takeFault r s).stack = s.stack := rfl
@[simp] theorem takeFault_dt (r : FaultRecord) : (takeFault r s).dt = s.dt := rfl
@[simp] theorem takeFault_st (r : FaultRecord) : (takeFault r s).st = s.st := rfl
@[simp] theorem takeFault_keys (r : FaultRecord) : (takeFault r s).keys = s.keys := rfl
@[simp] theorem takeFault_fb (r : FaultRecord) : (takeFault r s).fb = s.fb := rfl
@[simp] theorem takeFault_mem (r : FaultRecord) : (takeFault r s).mem = s.mem := rfl
@[simp] theorem takeFault_fault (r : FaultRecord) : (takeFault r s).fault = some r := rfl
@[simp] theorem takeFault_events (r : FaultRecord) : (takeFault r s).events = s.events := rfl
@[simp] theorem takeFault_params (r : FaultRecord) : (takeFault r s).params = s.params := rfl
@[simp] theorem takeFault_draws (r : FaultRecord) : (takeFault r s).draws = s.draws := rfl

/-! ### emitEvent -/

@[simp] theorem emitEvent_v (e : Event) : (emitEvent e s).v = s.v := rfl
@[simp] theorem emitEvent_i (e : Event) : (emitEvent e s).i = s.i := rfl
@[simp] theorem emitEvent_pc (e : Event) : (emitEvent e s).pc = s.pc := rfl
@[simp] theorem emitEvent_stack (e : Event) : (emitEvent e s).stack = s.stack := rfl
@[simp] theorem emitEvent_dt (e : Event) : (emitEvent e s).dt = s.dt := rfl
@[simp] theorem emitEvent_st (e : Event) : (emitEvent e s).st = s.st := rfl
@[simp] theorem emitEvent_keys (e : Event) : (emitEvent e s).keys = s.keys := rfl
@[simp] theorem emitEvent_fb (e : Event) : (emitEvent e s).fb = s.fb := rfl
@[simp] theorem emitEvent_mem (e : Event) : (emitEvent e s).mem = s.mem := rfl
@[simp] theorem emitEvent_fault (e : Event) : (emitEvent e s).fault = s.fault := rfl
@[simp] theorem emitEvent_events (e : Event) : (emitEvent e s).events = s.events ++ [e] := rfl
@[simp] theorem emitEvent_params (e : Event) : (emitEvent e s).params = s.params := rfl
@[simp] theorem emitEvent_draws (e : Event) : (emitEvent e s).draws = s.draws := rfl

/-! ### execUnknown -/

@[simp] theorem execUnknown_v (op : Word) : (execUnknown op s).v = s.v := rfl
@[simp] theorem execUnknown_i (op : Word) : (execUnknown op s).i = s.i := rfl
@[simp] theorem execUnknown_pc (op : Word) : (execUnknown op s).pc = s.pc := rfl
@[simp] theorem execUnknown_stack (op : Word) : (execUnknown op s).stack = s.stack := rfl
@[simp] theorem execUnknown_dt (op : Word) : (execUnknown op s).dt = s.dt := rfl
@[simp] theorem execUnknown_st (op : Word) : (execUnknown op s).st = s.st := rfl
@[simp] theorem execUnknown_keys (op : Word) : (execUnknown op s).keys = s.keys := rfl
@[simp] theorem execUnknown_fb (op : Word) : (execUnknown op s).fb = s.fb := rfl
@[simp] theorem execUnknown_mem (op : Word) : (execUnknown op s).mem = s.mem := rfl
@[simp] theorem execUnknown_fault (op : Word) : (execUnknown op s).fault = s.fault := rfl
@[simp] theorem execUnknown_events (op : Word) : (execUnknown op s).events = s.events ++ [⟨.unknownOpcode, op, s.instrAddr⟩] := rfl
@[simp] theorem execUnknown_params (op : Word) : (execUnknown op s).params = s.params := rfl
@[simp] theorem execUnknown_draws (op : Word) : (execUnknown op s).draws = s.draws := rfl

/-! ### skipIf, an update only of PC -/

@[simp] theorem skipIf_v (c : Bool) : (s.skipIf c).v = s.v := by cases c <;> rfl
@[simp] theorem skipIf_i (c : Bool) : (s.skipIf c).i = s.i := by cases c <;> rfl
@[simp] theorem skipIf_pc (c : Bool) : (s.skipIf c).pc = if c then s.pc + 2 else s.pc := by cases c <;> rfl
@[simp] theorem skipIf_stack (c : Bool) : (s.skipIf c).stack = s.stack := by cases c <;> rfl
@[simp] theorem skipIf_dt (c : Bool) : (s.skipIf c).dt = s.dt := by cases c <;> rfl
@[simp] theorem skipIf_st (c : Bool) : (s.skipIf c).st = s.st := by cases c <;> rfl
@[simp] theorem skipIf_keys (c : Bool) : (s.skipIf c).keys = s.keys := by cases c <;> rfl
@[simp] theorem skipIf_fb (c : Bool) : (s.skipIf c).fb = s.fb := by cases c <;> rfl
@[simp] theorem skipIf_mem (c : Bool) : (s.skipIf c).mem = s.mem := by cases c <;> rfl
@[simp] theorem skipIf_fault (c : Bool) : (s.skipIf c).fault = s.fault := by cases c <;> rfl
@[simp] theorem skipIf_events (c : Bool) : (s.skipIf c).events = s.events := by cases c <;> rfl
@[simp] theorem skipIf_params (c : Bool) : (s.skipIf c).params = s.params := by cases c <;> rfl
@[simp] theorem skipIf_draws (c : Bool) : (s.skipIf c).draws = s.draws := by cases c <;> rfl

/-! ### writeResultAndFlag, an update only of the registers -/

@[simp] theorem writeResultAndFlag_i (x : Reg) (b : Byte) (f : Bool) : (s.writeResultAndFlag x b f).i = s.i := by
  unfold State.writeResultAndFlag; split <;> rfl
@[simp] theorem writeResultAndFlag_pc (x : Reg) (b : Byte) (f : Bool) : (s.writeResultAndFlag x b f).pc = s.pc := by
  unfold State.writeResultAndFlag; split <;> rfl
@[simp] theorem writeResultAndFlag_stack (x : Reg) (b : Byte) (f : Bool) : (s.writeResultAndFlag x b f).stack = s.stack := by
  unfold State.writeResultAndFlag; split <;> rfl
@[simp] theorem writeResultAndFlag_dt (x : Reg) (b : Byte) (f : Bool) : (s.writeResultAndFlag x b f).dt = s.dt := by
  unfold State.writeResultAndFlag; split <;> rfl
@[simp] theorem writeResultAndFlag_st (x : Reg) (b : Byte) (f : Bool) : (s.writeResultAndFlag x b f).st = s.st := by
  unfold State.writeResultAndFlag; split <;> rfl
@[simp] theorem writeResultAndFlag_keys (x : Reg) (b : Byte) (f : Bool) : (s.writeResultAndFlag x b f).keys = s.keys := by
  unfold State.writeResultAndFlag; split <;> rfl
@[simp] theorem writeResultAndFlag_fb (x : Reg) (b : Byte) (f : Bool) : (s.writeResultAndFlag x b f).fb = s.fb := by
  unfold State.writeResultAndFlag; split <;> rfl
@[simp] theorem writeResultAndFlag_mem (x : Reg) (b : Byte) (f : Bool) : (s.writeResultAndFlag x b f).mem = s.mem := by
  unfold State.writeResultAndFlag; split <;> rfl
@[simp] theorem writeResultAndFlag_fault (x : Reg) (b : Byte) (f : Bool) : (s.writeResultAndFlag x b f).fault = s.fault := by
  unfold State.writeResultAndFlag; split <;> rfl
@[simp] theorem writeResultAndFlag_events (x : Reg) (b : Byte) (f : Bool) : (s.writeResultAndFlag x b f).events = s.events := by
  unfold State.writeResultAndFlag; split <;> rfl
@[simp] theorem writeResultAndFlag_params (x : Reg) (b : Byte) (f : Bool) : (s.writeResultAndFlag x b f).params = s.params := by
  unfold State.writeResultAndFlag; split <;> rfl
@[simp] theorem writeResultAndFlag_draws (x : Reg) (b : Byte) (f : Bool) : (s.writeResultAndFlag x b f).draws = s.draws := by
  unfold State.writeResultAndFlag; split <;> rfl

/-! ### Reading a register after an update -/

/-- A register read after a register write. -/
@[simp] theorem reg_setReg (r q : Reg) (b : Byte) : (s.setReg r b).reg q = if q = r then b else s.reg q := by
  simp only [State.reg, State.setReg, Vector.getElem_set, Fin.ext_iff]
  split <;> split <;> simp_all

/-- Two states with the same registers read the same in every register. -/
theorem reg_congr (s t : State) (h : t.v = s.v) (r : Reg) : t.reg r = s.reg r := by simp only [State.reg, h]

@[simp] theorem reg_setI (w : Word) (r : Reg) : (s.setI w).reg r = s.reg r := rfl
@[simp] theorem reg_setPc (w : Word) (r : Reg) : (s.setPc w).reg r = s.reg r := rfl
@[simp] theorem reg_setDt (b : Byte) (r : Reg) : (s.setDt b).reg r = s.reg r := rfl
@[simp] theorem reg_setSt (b : Byte) (r : Reg) : (s.setSt b).reg r = s.reg r := rfl
@[simp] theorem reg_setKeys (k : KeySnapshot) (r : Reg) : (s.setKeys k).reg r = s.reg r := rfl
@[simp] theorem reg_setFb (f : Framebuffer) (r : Reg) : (s.setFb f).reg r = s.reg r := rfl
@[simp] theorem reg_setMem (m : Memory) (r : Reg) : (s.setMem m).reg r = s.reg r := rfl
@[simp] theorem reg_setStack (l : List Word) (r : Reg) : (s.setStack l).reg r = s.reg r := rfl
@[simp] theorem reg_countDraw (r : Reg) : (s.countDraw).reg r = s.reg r := rfl
@[simp] theorem reg_push (w : Word) (r : Reg) : (s.push w).reg r = s.reg r := rfl
@[simp] theorem reg_drop (r : Reg) : (s.drop).reg r = s.reg r := rfl
@[simp] theorem reg_advancePc (r : Reg) : (s.advancePc).reg r = s.reg r := rfl
@[simp] theorem reg_takeFault (f : FaultRecord) (r : Reg) : (takeFault f s).reg r = s.reg r := rfl
@[simp] theorem reg_emitEvent (e : Event) (r : Reg) : (emitEvent e s).reg r = s.reg r := rfl
@[simp] theorem reg_execUnknown (op : Word) (r : Reg) : (execUnknown op s).reg r = s.reg r := rfl
@[simp] theorem reg_skipIf (c : Bool) (r : Reg) : (s.skipIf c).reg r = s.reg r := by cases c <;> rfl

/-- `WriteResultAndFlag` under either setting of VF_WRITE_ORDER (41_alu R150): away from VF both writes stand, and at VF the later one. -/
theorem reg_writeResultAndFlag (x q : Reg) (b : Byte) (f : Bool) :
    (s.writeResultAndFlag x b f).reg q =
      if q = vF then (if x = vF ∧ s.params.vfWriteOrder = .resultLast then b else flagByte f)
      else if q = x then b else s.reg q := by
  unfold State.writeResultAndFlag
  cases s.params.vfWriteOrder <;> grind [reg_setReg]

/-- A byte of the registers after a block of them was replaced (42_index_memory R185). -/
theorem getElem_writeRegs (bs : List Byte) : ∀ (v : Vector Byte 16) (k j : Nat) (hj : j < 16),
    (writeRegs v k bs)[j] = if k ≤ j then bs.getD (j - k) v[j] else v[j] := by
  induction bs with
  | nil => intro v k j hj; simp [writeRegs]
  | cons b bs ih =>
    intro v k j hj
    rw [writeRegs, ih]
    rcases Nat.lt_trichotomy k j with h | h | h
    · have h1 : k ≤ j := by omega
      have h2 : k + 1 ≤ j := by omega
      obtain ⟨d, rfl⟩ : ∃ d, j = k + 1 + d := ⟨j - (k + 1), by omega⟩
      have h3 : k + 1 + d - k = d + 1 := by omega
      simp only [h1, h2, h3, if_true, Nat.add_sub_cancel_left, List.getD_cons_succ]
      congr 1
      split
      · rw [Vector.getElem_set_ne]; omega
      · rfl
    · subst h
      simp [hj]
    · have h1 : ¬ k ≤ j := by omega
      have h2 : ¬ k + 1 ≤ j := by omega
      simp only [h1, h2, if_false]
      split
      · rw [Vector.getElem_set_ne]; omega
      · rfl

/-- Every register after `Fx65`'s write of V0 to V[x] (42_index_memory R185). -/
theorem reg_setLowRegs (bs : List Byte) (r : Reg) : (s.setLowRegs bs).reg r = bs.getD r.val (s.reg r) := by
  simp [State.reg, State.setLowRegs, getElem_writeRegs]

end Sys2Proof.Machine
end

