-- ==== Sys2Proof/Laws/Display.lean ====
section
/-! SUPPORT. Reading a pixel after a write to the framebuffer (43_display R200, R201). -/

namespace Sys2Proof.Machine

@[simp] theorem get_set (fb : Framebuffer) (px qx : Fin 64) (py qy : Fin 32) (b : Bool) :
    (fb.set px py b).get qx qy = if qx = px ∧ qy = py then b else fb.get qx qy := by
  simp only [Framebuffer.get, Framebuffer.set, Vector.getElem_set, Fin.ext_iff]
  by_cases h : px.val = qx.val
  · simp only [h, if_true, Vector.getElem_set]
    by_cases h2 : py.val = qy.val
    · simp [h2]
    · simp [h2, Ne.symm h2]
  · simp [h, Ne.symm h]

@[simp] theorem get_clear (px : Fin 64) (py : Fin 32) : Framebuffer.clear.get px py = false := by
  simp [Framebuffer.clear, Framebuffer.get]

/-- A column of a row changes the pixel it falls on when its sprite bit is set, and none otherwise (43_display R202). -/
theorem get_drawBit (ox oy row : Nat) (b : Byte) (acc : Framebuffer × Bool) (col : Nat) (qx : Fin 64) (qy : Fin 32) :
    (drawBit ox oy row b acc col).1.get qx qy =
      if spriteBit b col = true ∧ qx = Fin.ofNat 64 (ox + col) ∧ qy = Fin.ofNat 32 (oy + row) then !acc.1.get qx qy
      else acc.1.get qx qy := by
  unfold drawBit
  by_cases h : spriteBit b col = true
  · simp only [h, if_true, blit, get_set, true_and]
    split
    · next hq => rw [← hq.1, ← hq.2]
    · rfl
  · simp [h]

/-- The collision flag after a column: set before, or the pixel it toggled was set (43_display R200, R202). -/
theorem snd_drawBit (ox oy row : Nat) (b : Byte) (acc : Framebuffer × Bool) (col : Nat) :
    (drawBit ox oy row b acc col).2 =
      (acc.2 || (spriteBit b col && acc.1.get (Fin.ofNat 64 (ox + col)) (Fin.ofNat 32 (oy + row)))) := by
  unfold drawBit
  by_cases h : spriteBit b col = true <;> simp [h, blit]

end Sys2Proof.Machine
end

