-- ==== Sys2Proof/Laws/Memory.lean ====
section
/-! SUPPORT. What the memory operations do: a read after a write, the canonical form kept, and one lemma for each block transfer that
says everything it can answer (20_memory R63, R64, R69 to R71). -/

namespace Sys2Proof.Machine

/-! ## Reading after writing -/

theorem read_without (m : Memory) (a b : Nat) : (m.without a).read b = if b = a then Memory.resetByte b else m.read b := by
  induction m with
  | nil => simp [Memory.without, Memory.read]
  | cons c rest ih =>
    obtain ⟨k, w⟩ := c
    unfold Memory.without at ih ⊢
    by_cases hk : k = a
    · subst hk
      by_cases hb : b = k <;> simp_all [Memory.read]
    · have h : (k != a) = true := by simp [hk]
      simp only [List.filter_cons, h, if_true, Memory.read, ih]
      by_cases hb : b = k
      · subst hb; simp [hk]
      · simp [hb]

theorem read_withEntry (m : Memory) (a b : Nat) (v : Byte) (h : ∀ c ∈ m, c.1 ≠ a) :
    (m.withEntry a v).read b = if b = a then v else m.read b := by
  induction m with
  | nil => simp [Memory.withEntry, Memory.read]
  | cons c rest ih =>
    obtain ⟨k, w⟩ := c
    have hk : k ≠ a := h (k, w) (by simp)
    have ih' := ih (fun c hc => h c (by simp [hc]))
    unfold Memory.withEntry
    split
    · simp [Memory.read]
    · simp only [Memory.read, ih']
      by_cases hb : b = k
      · subst hb; simp [hk]
      · simp [hb]

theorem ne_of_mem_without {m : Memory} {a : Nat} {c : Host.Cell} (h : c ∈ m.without a) : c.1 ≠ a := by
  simp only [Memory.without, List.mem_filter, bne_iff_ne] at h
  exact h.2

/-- A read after a write gives the value written at its address and the old byte everywhere else (20_memory R71). -/
@[simp] theorem read_put (m : Memory) (a b : Nat) (v : Byte) : (m.put a v).read b = if b = a then v else m.read b := by
  unfold Memory.put
  split
  · next h => rw [read_without]; split <;> simp_all
  · rw [read_withEntry _ _ _ _ (fun c hc => ne_of_mem_without hc), read_without]; split <;> rfl

/-! ## The canonical form -/

theorem wf_nil : Memory.wf [] := ⟨List.Pairwise.nil, by simp⟩

theorem wf_without {m : Memory} (h : m.wf) (a : Nat) : (m.without a).wf :=
  ⟨h.1.filter _, fun c hc => h.2 c (List.mem_of_mem_filter hc)⟩

theorem mem_withEntry {m : Memory} {a : Nat} {v : Byte} {c : Host.Cell} (h : c ∈ m.withEntry a v) : c = (a, v) ∨ c ∈ m := by
  induction m with
  | nil => simpa [Memory.withEntry] using h
  | cons d rest ih =>
    unfold Memory.withEntry at h
    split at h
    · simpa using h
    · rcases List.mem_cons.1 h with rfl | h
      · simp
      · rcases ih h with h | h <;> simp [h]

theorem pairwise_withEntry {m : Memory} (hs : m.Pairwise (fun c d => c.1 < d.1)) {a : Nat} (hne : ∀ c ∈ m, c.1 ≠ a) (v : Byte) :
    (m.withEntry a v).Pairwise (fun c d => c.1 < d.1) := by
  induction m with
  | nil => simp [Memory.withEntry]
  | cons d rest ih =>
    have hd := List.pairwise_cons.1 hs
    unfold Memory.withEntry
    split
    · next hlt =>
      refine List.pairwise_cons.2 ⟨fun c hc => ?_, hs⟩
      rcases List.mem_cons.1 hc with rfl | hc
      · exact hlt
      · exact Nat.lt_trans hlt (hd.1 c hc)
    · next hge =>
      refine List.pairwise_cons.2 ⟨fun c hc => ?_, ih hd.2 (fun c hc => hne c (by simp [hc]))⟩
      rcases mem_withEntry hc with rfl | hc
      · exact Nat.lt_of_le_of_ne (Nat.le_of_not_lt hge) (hne d (by simp))
      · exact hd.1 c hc

/-- A write within memory keeps the canonical form. -/
theorem wf_put {m : Memory} (h : m.wf) {a : Nat} (ha : a ≤ 0xFFF) (v : Byte) : (m.put a v).wf := by
  unfold Memory.put
  split
  · exact wf_without h a
  · next hv =>
    refine ⟨pairwise_withEntry (wf_without h a).1 (fun c hc => ne_of_mem_without hc) v, fun c hc => ?_⟩
    rcases mem_withEntry hc with rfl | hc
    · exact ⟨ha, hv⟩
    · exact (wf_without h a).2 c hc

/-- `MemWrite` keeps the canonical form (20_memory R64). -/
theorem wf_memWrite {m m' : Memory} (h : m.wf) {a : Nat} {v : Byte} (hw : memWrite m a v = .ok m') : m'.wf := by
  unfold memWrite at hw
  split at hw
  · cases hw
  · cases hw; exact wf_put h (by omega) v

/-- A block store keeps the canonical form. -/
theorem wf_writeBlock {m m' : Memory} (h : m.wf) {a : Nat} {bs : List Byte} (hw : writeBlock m a bs = .ok m') : m'.wf := by
  induction bs generalizing m a with
  | nil => cases hw; exact h
  | cons b bs ih =>
    unfold writeBlock at hw
    split at hw
    · cases hw
    · next m1 h1 => exact ih (wf_memWrite h h1) hw

/-- The host's block store within memory keeps the canonical form (70_reset R280, R283). -/
theorem wf_putBlock {m : Memory} (h : m.wf) {a : Nat} {bs : List Byte} (hb : a + bs.length ≤ 0x1000) : (m.putBlock a bs).wf := by
  induction bs generalizing m a with
  | nil => exact h
  | cons b bs ih =>
    simp only [List.length_cons] at hb
    exact ih (wf_put h (by omega) b) (by omega)

/-- Equal contents are equal data: two canonical memories that read the same at every address are the same list. -/
theorem wf_ext {m m' : Memory} (h : m.wf) (h' : m'.wf) (hr : ∀ a, m.read a = m'.read a) : m = m' := by
  have lookup : ∀ {n : Memory}, n.wf → ∀ {a : Nat}, (∀ c ∈ n, c.1 ≠ a) → n.read a = Memory.resetByte a := by
    intro n hn a hne
    induction n with
    | nil => rfl
    | cons c rest ih =>
      have hc := hne c (by simp)
      simp only [Memory.read, if_neg (Ne.symm hc)]
      exact ih ⟨(List.pairwise_cons.1 hn.1).2, fun d hd => hn.2 d (by simp [hd])⟩ (fun d hd => hne d (by simp [hd]))
  have above : ∀ {c : Host.Cell} {n : Memory}, Memory.wf (c :: n) → ∀ {a : Nat}, a ≤ c.1 → ∀ d ∈ n, d.1 ≠ a := by
    intro c n hn a ha d hd
    have := (List.pairwise_cons.1 hn.1).1 d hd
    omega
  induction m generalizing m' with
  | nil =>
    cases m' with
    | nil => rfl
    | cons c rest =>
      have := hr c.1
      simp only [Memory.read, if_true] at this
      exact absurd this.symm (h'.2 c (by simp)).2
  | cons c rest ih =>
    have hrest : Memory.wf rest := ⟨(List.pairwise_cons.1 h.1).2, fun d hd => h.2 d (by simp [hd])⟩
    cases m' with
    | nil =>
      have := hr c.1
      simp only [Memory.read, if_true] at this
      exact absurd this (h.2 c (by simp)).2
    | cons d rest' =>
      have hrest' : Memory.wf rest' := ⟨(List.pairwise_cons.1 h'.1).2, fun e he => h'.2 e (by simp [he])⟩
      have hc := hr c.1
      have hd := hr d.1
      simp only [Memory.read, if_true] at hc hd
      rcases Nat.lt_trichotomy c.1 d.1 with hlt | heq | hgt
      · rw [if_neg (by omega), lookup hrest' (above h' (by omega))] at hc
        exact absurd hc (h.2 c (by simp)).2
      · rw [if_pos heq] at hc
        have hcd : c = d := Prod.ext heq hc
        subst hcd
        congr 1
        refine ih hrest hrest' (fun a => ?_)
        have ha := hr a
        simp only [Memory.read] at ha
        by_cases hac : a = c.1
        · rw [lookup hrest (above h (by omega)), lookup hrest' (above h' (by omega))]
        · simpa only [if_neg hac] using ha
      · rw [if_neg (by omega), lookup hrest (above h (by omega))] at hd
        exact absurd hd.symm (h'.2 d (by simp)).2

/-! ## Block transfers -/

/-- Everything a block read can answer: the bytes when all addresses exist, else the first address out of bounds (20_memory R69). -/
theorem readBlock_eq (m : Memory) (a n : Nat) :
    readBlock m a n =
      if n = 0 ∨ a + n ≤ 0x1000 then .ok ((List.range n).map fun k => m.read (a + k)) else .error (max a 0x1000) := by
  induction n generalizing a with
  | zero => rfl
  | succ n ih =>
    simp only [readBlock, memRead]
    by_cases h : a > 0xFFF
    · rw [if_pos h, if_neg (by omega)]
      simp only [Except.error.injEq]; omega
    · rw [if_neg h]
      simp only [ih (a + 1)]
      by_cases h2 : n = 0 ∨ a + 1 + n ≤ 0x1000
      · rw [if_pos h2, if_pos (by omega)]
        simp [List.range_succ_eq_map, Function.comp_def, Nat.add_assoc, Nat.add_comm 1]
      · rw [if_neg h2, if_neg (by omega)]
        simp only [Except.error.injEq]; omega

/-- A block store fails exactly when some address is out of bounds, with the first such address. -/
theorem writeBlock_error (m : Memory) (a : Nat) (bs : List Byte) (h : ¬ (bs = [] ∨ a + bs.length ≤ 0x1000)) :
    writeBlock m a bs = .error (max a 0x1000) := by
  induction bs generalizing m a with
  | nil => simp at h
  | cons b bs ih =>
    simp only [List.length_cons, reduceCtorEq, false_or] at h
    simp only [writeBlock, memWrite]
    by_cases h1 : a > 0xFFF
    · rw [if_pos h1]; simp only [Except.error.injEq]; omega
    · rw [if_neg h1]
      have : ¬ (bs = [] ∨ a + 1 + bs.length ≤ 0x1000) := by
        rintro (rfl | h2)
        · simp at h; omega
        · omega
      simp only [ih (m.put a b) (a + 1) this, Except.error.injEq]; omega

/-- A block store within bounds is a `putBlock`. -/
theorem writeBlock_ok (m : Memory) (a : Nat) (bs : List Byte) (h : bs = [] ∨ a + bs.length ≤ 0x1000) :
    writeBlock m a bs = .ok (m.putBlock a bs) := by
  induction bs generalizing m a with
  | nil => rfl
  | cons b bs ih =>
    simp only [List.length_cons, reduceCtorEq, false_or] at h
    simp only [writeBlock, memWrite, Memory.putBlock, if_neg (show ¬ a > 0xFFF by omega)]
    exact ih (m.put a b) (a + 1) (Or.inr (by omega))

/-- Every byte after a block was stored: the block's bytes in its window, the old byte outside (20_memory R71). -/
theorem read_putBlock (bs : List Byte) : ∀ (m : Memory) (a c : Nat),
    (m.putBlock a bs).read c = if a ≤ c then bs.getD (c - a) (m.read c) else m.read c := by
  induction bs with
  | nil => intro m a c; simp [Memory.putBlock]
  | cons b bs ih =>
    intro m a c
    rw [Memory.putBlock, ih]
    rcases Nat.lt_trichotomy a c with h | h | h
    · obtain ⟨d, rfl⟩ : ∃ d, c = a + 1 + d := ⟨c - (a + 1), by omega⟩
      have h3 : a + 1 + d - a = d + 1 := by omega
      have h4 : a ≤ a + 1 + d := by omega
      have h5 : a + 1 ≤ a + 1 + d := by omega
      have h6 : ¬ a + 1 + d = a := by omega
      simp only [h3, h4, h5, h6, if_true, if_false, Nat.add_sub_cancel_left, List.getD_cons_succ, read_put]
    · subst h; simp
    · have h4 : ¬ a ≤ c := by omega
      have h5 : ¬ a + 1 ≤ c := by omega
      have h6 : ¬ c = a := by omega
      simp only [h4, h5, h6, if_false, read_put]

end Sys2Proof.Machine
end

