-- ==== Sys2Proof/Laws/PerInstr.lean ====
section
/-! SUPPORT. Statements made for all instructions, one lemma per constructor. Family `InRow`: the opcode of an instruction lies within
its row of the opcode map, `op & mask = match` (30_encoding R93), and the row is one of the 34. -/

namespace Sys2Proof.Laws.InRow

/-- The encoding of `i` matches the row of `i`, which is a row of the map (R93). -/
def Statement (i : Instr) : Prop := i.row.accepts (encode i) = true ∧ i.row ∈ opcodeRows

theorem family_row (f : Nat) (hf : f < 16) (x y : Reg) {n : Nat} (hn : n < 16) :
    wordXYN (f * 0x1000) x y n &&& 0xF00F#16 = BitVec.ofNat 16 (f * 0x1000 + n) := by
  apply BitVec.eq_of_toNat_eq
  rw [toNat_and_F00F, toNat_wordXYN x y (by omega) hn, BitVec.toNat_ofNat]
  omega

theorem family_row_xyn (f : Nat) (hf : f < 16) (x y : Reg) (n : RowCount) :
    wordXYN (f * 0x1000) x y n.val &&& 0xF000#16 = BitVec.ofNat 16 (f * 0x1000) := by
  apply BitVec.eq_of_toNat_eq
  rw [toNat_and_F000, toNat_wordXYN x y (by omega) n.isLt, BitVec.toNat_ofNat]
  omega

theorem family_row_xnn (f : Nat) (hf : f < 16) (x : Reg) (nn : Byte) :
    wordXNN (f * 0x1000) x nn.toNat &&& 0xF000#16 = BitVec.ofNat 16 (f * 0x1000) := by
  apply BitVec.eq_of_toNat_eq
  rw [toNat_and_F000, toNat_wordXNN x (by omega) nn.isLt, BitVec.toNat_ofNat]
  omega

theorem family_row_sel (f : Nat) (hf : f < 16) (x : Reg) {n : Nat} (hn : n < 256) :
    wordXNN (f * 0x1000) x n &&& 0xF0FF#16 = BitVec.ofNat 16 (f * 0x1000 + n) := by
  apply BitVec.eq_of_toNat_eq
  rw [toNat_and_F0FF, toNat_wordXNN x (by omega) hn, BitVec.toNat_ofNat]
  omega

theorem family_row_nnn (f : Nat) (hf : f < 16) (nnn : Addr12) :
    wordNNN (f * 0x1000) nnn &&& 0xF000#16 = BitVec.ofNat 16 (f * 0x1000) := by
  have := nnn.isLt
  apply BitVec.eq_of_toNat_eq
  rw [toNat_and_F000, toNat_wordNNN nnn (by omega), BitVec.toNat_ofNat]
  omega

theorem accepts_of {r : OpcodeRow} {op : Word} (h : op &&& r.mask = r.bits) : r.accepts op = true := by
  simp [OpcodeRow.accepts, h]

theorem cls : Statement .cls := ⟨by decide, by decide⟩
theorem ret : Statement .ret := ⟨by decide, by decide⟩
theorem jp (nnn : Addr12) : Statement (.jp nnn) :=
  ⟨accepts_of (family_row_nnn 1 (by decide) nnn), by simp [opcodeRows, Instr.row]⟩
theorem call (nnn : Addr12) : Statement (.call nnn) :=
  ⟨accepts_of (family_row_nnn 2 (by decide) nnn), by simp [opcodeRows, Instr.row]⟩
theorem seImm (x : Reg) (nn : Byte) : Statement (.seImm x nn) :=
  ⟨accepts_of (family_row_xnn 3 (by decide) x nn), by simp [opcodeRows, Instr.row]⟩
theorem sneImm (x : Reg) (nn : Byte) : Statement (.sneImm x nn) :=
  ⟨accepts_of (family_row_xnn 4 (by decide) x nn), by simp [opcodeRows, Instr.row]⟩
theorem seReg (x y : Reg) : Statement (.seReg x y) :=
  ⟨accepts_of (family_row 5 (by decide) x y (n := 0) (by decide)), by simp [opcodeRows, Instr.row]⟩
theorem ldImm (x : Reg) (nn : Byte) : Statement (.ldImm x nn) :=
  ⟨accepts_of (family_row_xnn 6 (by decide) x nn), by simp [opcodeRows, Instr.row]⟩
theorem addImm (x : Reg) (nn : Byte) : Statement (.addImm x nn) :=
  ⟨accepts_of (family_row_xnn 7 (by decide) x nn), by simp [opcodeRows, Instr.row]⟩
theorem ldReg (x y : Reg) : Statement (.ldReg x y) :=
  ⟨accepts_of (family_row 8 (by decide) x y (n := 0) (by decide)), by simp [opcodeRows, Instr.row]⟩
theorem orReg (x y : Reg) : Statement (.orReg x y) :=
  ⟨accepts_of (family_row 8 (by decide) x y (n := 1) (by decide)), by simp [opcodeRows, Instr.row]⟩
theorem andReg (x y : Reg) : Statement (.andReg x y) :=
  ⟨accepts_of (family_row 8 (by decide) x y (n := 2) (by decide)), by simp [opcodeRows, Instr.row]⟩
theorem xorReg (x y : Reg) : Statement (.xorReg x y) :=
  ⟨accepts_of (family_row 8 (by decide) x y (n := 3) (by decide)), by simp [opcodeRows, Instr.row]⟩
theorem addReg (x y : Reg) : Statement (.addReg x y) :=
  ⟨accepts_of (family_row 8 (by decide) x y (n := 4) (by decide)), by simp [opcodeRows, Instr.row]⟩
theorem sub (x y : Reg) : Statement (.sub x y) :=
  ⟨accepts_of (family_row 8 (by decide) x y (n := 5) (by decide)), by simp [opcodeRows, Instr.row]⟩
theorem shr (x y : Reg) : Statement (.shr x y) :=
  ⟨accepts_of (family_row 8 (by decide) x y (n := 6) (by decide)), by simp [opcodeRows, Instr.row]⟩
theorem subn (x y : Reg) : Statement (.subn x y) :=
  ⟨accepts_of (family_row 8 (by decide) x y (n := 7) (by decide)), by simp [opcodeRows, Instr.row]⟩
theorem shl (x y : Reg) : Statement (.shl x y) :=
  ⟨accepts_of (family_row 8 (by decide) x y (n := 14) (by decide)), by simp [opcodeRows, Instr.row]⟩
theorem sneReg (x y : Reg) : Statement (.sneReg x y) :=
  ⟨accepts_of (family_row 9 (by decide) x y (n := 0) (by decide)), by simp [opcodeRows, Instr.row]⟩
theorem ldI (nnn : Addr12) : Statement (.ldI nnn) :=
  ⟨accepts_of (family_row_nnn 10 (by decide) nnn), by simp [opcodeRows, Instr.row]⟩
theorem jpV0 (nnn : Addr12) : Statement (.jpV0 nnn) :=
  ⟨accepts_of (family_row_nnn 11 (by decide) nnn), by simp [opcodeRows, Instr.row]⟩
theorem rnd (x : Reg) (nn : Byte) : Statement (.rnd x nn) :=
  ⟨accepts_of (family_row_xnn 12 (by decide) x nn), by simp [opcodeRows, Instr.row]⟩
theorem drw (x y : Reg) (n : RowCount) : Statement (.drw x y n) :=
  ⟨accepts_of (family_row_xyn 13 (by decide) x y n), by simp [opcodeRows, Instr.row]⟩
theorem skp (x : Reg) : Statement (.skp x) :=
  ⟨accepts_of (family_row_sel 14 (by decide) x (n := 0x9e) (by decide)), by simp [opcodeRows, Instr.row]⟩
theorem sknp (x : Reg) : Statement (.sknp x) :=
  ⟨accepts_of (family_row_sel 14 (by decide) x (n := 0xa1) (by decide)), by simp [opcodeRows, Instr.row]⟩
theorem ldVxDt (x : Reg) : Statement (.ldVxDt x) :=
  ⟨accepts_of (family_row_sel 15 (by decide) x (n := 0x7) (by decide)), by simp [opcodeRows, Instr.row]⟩
theorem ldVxK (x : Reg) : Statement (.ldVxK x) :=
  ⟨accepts_of (family_row_sel 15 (by decide) x (n := 0xa) (by decide)), by simp [opcodeRows, Instr.row]⟩
theorem ldDtVx (x : Reg) : Statement (.ldDtVx x) :=
  ⟨accepts_of (family_row_sel 15 (by decide) x (n := 0x15) (by decide)), by simp [opcodeRows, Instr.row]⟩
theorem ldStVx (x : Reg) : Statement (.ldStVx x) :=
  ⟨accepts_of (family_row_sel 15 (by decide) x (n := 0x18) (by decide)), by simp [opcodeRows, Instr.row]⟩
theorem addI (x : Reg) : Statement (.addI x) :=
  ⟨accepts_of (family_row_sel 15 (by decide) x (n := 0x1e) (by decide)), by simp [opcodeRows, Instr.row]⟩
theorem ldF (x : Reg) : Statement (.ldF x) :=
  ⟨accepts_of (family_row_sel 15 (by decide) x (n := 0x29) (by decide)), by simp [opcodeRows, Instr.row]⟩
theorem ldB (x : Reg) : Statement (.ldB x) :=
  ⟨accepts_of (family_row_sel 15 (by decide) x (n := 0x33) (by decide)), by simp [opcodeRows, Instr.row]⟩
theorem store (x : Reg) : Statement (.store x) :=
  ⟨accepts_of (family_row_sel 15 (by decide) x (n := 0x55) (by decide)), by simp [opcodeRows, Instr.row]⟩
theorem load (x : Reg) : Statement (.load x) :=
  ⟨accepts_of (family_row_sel 15 (by decide) x (n := 0x65) (by decide)), by simp [opcodeRows, Instr.row]⟩

end Sys2Proof.Laws.InRow
end

