-- ==== Sys2Proof/Laws/Step.lean ====
section
/-! SUPPORT. What the fetch, a step and the meanings with two outcomes can answer, each said once. -/

namespace Sys2Proof.Machine

/-! ## Fetch and step -/

/-- The fetch answers an opcode exactly when neither check of R121 fires, and it is then the big-endian word at PC. -/
theorem fetch_ok_iff (s : State) (op : Word) :
    fetch s = .ok op ↔
      ¬ (s.pc.toNat % 2 = 1 ∧ s.params.oddPcPolicy = .fault) ∧ s.pc.toNat + 1 ≤ 0xFFF ∧
        op = wordOfBytes (s.mem.read s.pc.toNat) (s.mem.read (s.pc.toNat + 1)) := by
  unfold fetch
  split
  · simp_all
  · split
    · simp_all
    · simp_all [eq_comm]

/-- A fetch that fails leaves one of two records (R121). -/
theorem fetch_error (s : State) (r : FaultRecord) (h : fetch s = .error r) :
    (r = ⟨.pcMisaligned, s.pc, none, .nothing⟩ ∧ s.pc.toNat % 2 = 1 ∧ s.params.oddPcPolicy = .fault) ∨
    (r = ⟨.memoryOutOfBounds, s.pc, none, .address (max s.pc.toNat 0x1000)⟩ ∧ 0xFFF < s.pc.toNat + 1) := by
  unfold fetch at h
  split at h
  · next hc => cases h; exact .inl ⟨rfl, hc.1, hc.2⟩
  · split at h
    · next hc => cases h; exact .inr ⟨rfl, hc⟩
    · cases h

/-- Memory after a block store reads as the block laid over it (20_memory R71). -/
theorem read_putBlock_overlaid (m : Memory) (base : Nat) (bs : List Byte) (a : Nat) :
    (m.putBlock base bs).read a = overlaid m base bs a := by
  rw [read_putBlock]
  rfl

/-- While an instruction executes, its own address is the PC the step began with. -/
@[simp] theorem instrAddr_advancePc (s : State) : s.advancePc.instrAddr = s.pc := by
  simp [State.instrAddr]

/-- Everything a step that answers a next state can have done: it began with no fault, and either the fetch faulted, or an instruction
ran from PC + 2, or an unknown opcode was reported (40_control_flow R120). -/
theorem step_cases {s t : State} (h : step s = .next t) :
    s.fault = none ∧
      ((∃ r, fetch s = .error r ∧ t = takeFault r s) ∨
       (∃ op i, fetch s = .ok op ∧ decodeWord op = some i ∧ exec i s.advancePc = .next t) ∨
       (∃ op, fetch s = .ok op ∧ decodeWord op = none ∧ t = execUnknown op s.advancePc)) := by
  unfold step at h
  split at h
  · cases h
  · next hf =>
    refine ⟨hf, ?_⟩
    split at h
    · next r hr => cases h; exact .inl ⟨r, hr, rfl⟩
    · next op hop =>
      split at h
      · next i hi => exact .inr (.inl ⟨op, i, hop, hi, h⟩)
      · next hi => cases h; exact .inr (.inr ⟨op, hop, hi, rfl⟩)

/-! ## The meanings with two outcomes -/

/-- A raised fault is a next state: only the fault status is written (60_exceptions R246). -/
theorem raiseFault_eq (i : Instr) (code : FaultCode) (info : FaultInfo) (s : State) :
    raiseFault i code info s = .next { s with fault := some ⟨code, s.pc - 2, some (encode i), info⟩ } := rfl

theorem length_bcdDigits (b : Byte) : (bcdDigits b).length = 3 := rfl

theorem length_lowRegs (s : State) (x : Reg) : (s.lowRegs x).length = x.val + 1 := by
  simp [State.lowRegs]

/-- `Fx33`: three bytes stored, or the first address out of bounds (42_index_memory R183). -/
theorem execLdB_eq (x : Reg) (s : State) :
    execLdB x s = if s.base + 2 ≤ 0xFFF then .next (s.setMem (s.mem.putBlock s.base (bcdDigits (s.reg x))))
      else raiseFault (.ldB x) .memoryOutOfBounds (.address (max s.base 0x1000)) s := by
  unfold execLdB
  split_ifs with h
  · rw [writeBlock_ok _ _ _ (Or.inr (by rw [length_bcdDigits]; omega))]
  · rw [writeBlock_error _ _ _ (by rintro (h' | h') <;> [simp [bcdDigits] at h'; (rw [length_bcdDigits] at h'; omega)])]

/-- `Fx55`: x + 1 bytes stored, or the first address out of bounds (42_index_memory R184). -/
theorem execStore_eq (x : Reg) (s : State) :
    execStore x s = if s.base + x.val ≤ 0xFFF then .next (s.setMem (s.mem.putBlock s.base (s.lowRegs x)))
      else raiseFault (.store x) .memoryOutOfBounds (.address (max s.base 0x1000)) s := by
  have hl := length_lowRegs s x
  unfold execStore
  split_ifs with h
  · rw [writeBlock_ok _ _ _ (Or.inr (by omega))]
  · rw [writeBlock_error _ _ _ (by rintro (h' | h') <;> [(rw [h'] at hl; simp at hl); omega])]

/-- `Fx65`: V0 to V[x] loaded, or the first address out of bounds (42_index_memory R185). -/
theorem execLoad_eq (x : Reg) (s : State) :
    execLoad x s =
      if s.base + x.val ≤ 0xFFF then .next (s.setLowRegs ((List.range (x.val + 1)).map fun k => s.mem.read (s.base + k)))
      else raiseFault (.load x) .memoryOutOfBounds (.address (max s.base 0x1000)) s := by
  unfold execLoad
  rw [readBlock_eq]
  by_cases h : s.base + x.val ≤ 0xFFF
  · rw [if_pos h, if_pos (Or.inr (by omega))]
  · rw [if_neg h, if_neg (by omega)]

/-- `Dxyn`: FB and VF written, or the first address out of bounds (43_display R202). -/
theorem execDrw_eq (x y : Reg) (n : RowCount) (s : State) :
    execDrw x y n s =
      if n.val = 0 ∨ s.base + n.val ≤ 0x1000 then
        let d := drawSprite s.fb (s.originX x) (s.originY y) ((List.range n.val).map fun k => s.mem.read (s.base + k))
        .next ((s.setFb d.1).setReg vF (flagByte d.2))
      else raiseFault (.drw x y n) .memoryOutOfBounds (.address (max s.base 0x1000)) s := by
  unfold execDrw
  rw [readBlock_eq]
  split_ifs <;> rfl

end Sys2Proof.Machine
end

