-- ==== Sys2Proof/Tests/Slice0.lean ====
section
/-! SUPPORT. Tests. Expected results come from the rules and from the vectors of 95_test_vectors (W-, D-, CF-, A-, IM-, DS-, KT-, F-
numbers, programs P1 to P5), none from the model. A `test_` theorem checks one field or two after one step; a `witness_` theorem shows
a state and operands that meet the hypotheses of an obligation. -/

namespace Sys2Proof.Machine.Tests

set_option Elab.async false

open Sys2Proof Sys2Proof.Machine

/-! ## Well-formedness: a word each check refuses, beside one it lets through (30_encoding R95, R98; 00_scope R8) -/

theorem test_family0_refuses : wellFormedFamily0 0x00E1 = false ∧ wellFormedWord 0x0123 = false ∧ wellFormedWord 0x00E0 = true := by
  decide
theorem test_family5_refuses : wellFormedFamily5or9 0x5121 = false ∧ wellFormedWord 0x5121 = false ∧ wellFormedWord 0x5120 = true := by
  decide
theorem test_family8_refuses : wellFormedFamily8 0x8008 = false ∧ wellFormedWord 0x8FFF = false ∧ wellFormedWord 0x812E = true := by
  decide
theorem test_family9_refuses : wellFormedWord 0x9AB7 = false ∧ wellFormedWord 0x9AB0 = true := by decide
theorem test_familyE_refuses : wellFormedFamilyE 0xE000 = false ∧ wellFormedWord 0xE09F = false ∧ wellFormedWord 0xE0A1 = true := by
  decide
theorem test_familyF_refuses : wellFormedFamilyF 0xF0FF = false ∧ wellFormedWord 0xF056 = false ∧ wellFormedWord 0xF055 = true := by
  decide
theorem test_params_refuse_capacity_zero :
    Params.wellFormed { Params.default with stackCapacity := .bounded 0 } = false ∧ Params.default.wellFormed = true := by decide
theorem test_budget_refuses :
    FrameBudget.wellFormed ⟨8, 7, 16⟩ = false ∧ FrameBudget.wellFormed ⟨8, 17, 16⟩ = false ∧ FrameBudget.wellFormed ⟨8, 16, 16⟩ = true := by
  decide

/-! ## Decoding: a word for every constructor, written out from the map of 30_encoding R93 -/

theorem test_decode_cls : decodeWord 0b0000_0000_1110_0000 = some .cls := by decide
theorem test_decode_ret : decodeWord 0b0000_0000_1110_1110 = some .ret := by decide
theorem test_decode_jp : decodeWord 0b0001_0010_0011_0100 = some (.jp 0x234) := by decide
theorem test_decode_call : decodeWord 0b0010_1111_1110_1101 = some (.call 0xFED) := by decide
theorem test_decode_seImm : decodeWord 0b0011_1010_0101_0001 = some (.seImm 10 0x51) := by decide
theorem test_decode_sneImm : decodeWord 0b0100_0001_1000_0010 = some (.sneImm 1 0x82) := by decide
theorem test_decode_seReg : decodeWord 0b0101_1001_0110_0000 = some (.seReg 9 6) := by decide
theorem test_decode_ldImm : decodeWord 0b0110_1010_0100_0010 = some (.ldImm 10 0x42) := by decide
theorem test_decode_addImm : decodeWord 0b0111_1111_0000_0001 = some (.addImm 15 0x01) := by decide
theorem test_decode_ldReg : decodeWord 0b1000_0001_0010_0000 = some (.ldReg 1 2) := by decide
theorem test_decode_orReg : decodeWord 0b1000_0001_0010_0001 = some (.orReg 1 2) := by decide
theorem test_decode_andReg : decodeWord 0b1000_0001_0010_0010 = some (.andReg 1 2) := by decide
theorem test_decode_xorReg : decodeWord 0b1000_0001_0010_0011 = some (.xorReg 1 2) := by decide
theorem test_decode_addReg : decodeWord 0b1000_0001_0010_0100 = some (.addReg 1 2) := by decide
theorem test_decode_sub : decodeWord 0b1000_0001_0010_0101 = some (.sub 1 2) := by decide
theorem test_decode_shr : decodeWord 0b1000_0001_0010_0110 = some (.shr 1 2) := by decide
theorem test_decode_subn : decodeWord 0b1000_0001_0010_0111 = some (.subn 1 2) := by decide
theorem test_decode_shl : decodeWord 0b1000_0001_0010_1110 = some (.shl 1 2) := by decide
theorem test_decode_sneReg : decodeWord 0b1001_1010_1011_0000 = some (.sneReg 10 11) := by decide
theorem test_decode_ldI : decodeWord 0b1010_0001_0010_0011 = some (.ldI 0x123) := by decide
theorem test_decode_jpV0 : decodeWord 0b1011_0011_0000_0000 = some (.jpV0 0x300) := by decide
theorem test_decode_rnd : decodeWord 0b1100_0011_0000_1111 = some (.rnd 3 0x0F) := by decide
theorem test_decode_drw : decodeWord 0b1101_1100_0001_0101 = some (.drw 12 1 5) := by decide
theorem test_decode_skp : decodeWord 0b1110_0001_1001_1110 = some (.skp 1) := by decide
theorem test_decode_sknp : decodeWord 0b1110_0010_1010_0001 = some (.sknp 2) := by decide
theorem test_decode_ldVxDt : decodeWord 0b1111_0010_0000_0111 = some (.ldVxDt 2) := by decide
theorem test_decode_ldVxK : decodeWord 0b1111_0101_0000_1010 = some (.ldVxK 5) := by decide
theorem test_decode_ldDtVx : decodeWord 0b1111_0001_0001_0101 = some (.ldDtVx 1) := by decide
theorem test_decode_ldStVx : decodeWord 0b1111_0001_0001_1000 = some (.ldStVx 1) := by decide
theorem test_decode_addI : decodeWord 0b1111_0010_0001_1110 = some (.addI 2) := by decide
theorem test_decode_ldF : decodeWord 0b1111_0100_0010_1001 = some (.ldF 4) := by decide
theorem test_decode_ldB : decodeWord 0b1111_0101_0011_0011 = some (.ldB 5) := by decide
theorem test_decode_store : decodeWord 0b1111_0011_0101_0101 = some (.store 3) := by decide
theorem test_decode_load : decodeWord 0b1111_0010_0110_0101 = some (.load 2) := by decide

/-- D-2 to D-10: opcodes outside the map are rejected by name. -/
theorem test_decode_rejects :
    decode [0x01, 0x23] = .error (.unknownOpcode 0x0123) ∧ decode [0x00, 0x00] = .error (.unknownOpcode 0x0000) ∧
    decode [0x51, 0x21] = .error (.unknownOpcode 0x5121) ∧ decode [0x9A, 0xB7] = .error (.unknownOpcode 0x9AB7) ∧
    decode [0x8F, 0xFF] = .error (.unknownOpcode 0x8FFF) ∧ decode [0xE0, 0x00] = .error (.unknownOpcode 0xE000) ∧
    decode [0xF0, 0xFF] = .error (.unknownOpcode 0xF0FF) ∧ decode [0x00, 0xE1] = .error (.unknownOpcode 0x00E1) ∧
    decode [0x6A] = .error .truncated := by decide

/-- The host's word: the lowest bits of `w`, high byte first (20_memory R67). -/
theorem test_decodeTableWord : decodeTableWord 16 0x6A42 = some (.ldImm 10 0x42) ∧ decodeTableWord 16 0x5121 = none := by decide

/-! ## One step of each instruction -/

/-- The state after one step, with the opcode stored at PC. -/
def runOp (op : Nat) (s : State) : State := hostStep (s.withFetchWord 16 op)

/-- A state with the quirks other than the defaults. -/
def quirky (s : State) : State :=
  { s with params := ⟨.unbounded, .vy, .vx, .resultLast, .fetch⟩ }

/-- Reset with two registers set. -/
def regs2 (x : Reg) (a : Byte) (y : Reg) (b : Byte) : State := (State.reset.setReg x a).setReg y b

/-- Reset with I at an address. -/
def atI (w : Word) (s : State) : State := s.setI w

/-- Reset with exactly these keys down. -/
def keysDown (l : List Nat) : KeySnapshot := Vector.ofFn fun k => l.elem k.val

/-- DS-1, W3. -/
theorem test_cls :
    (runOp 0x00E0 ((State.reset.setReg 15 5).setFb (Framebuffer.clear.set 3 4 true))).fb.get 3 4 = false ∧
    (runOp 0x00E0 (State.reset.setReg 15 5)).reg 15 = 5 := by decide +kernel

/-- CF-10, F-1 (the record of a StackUnderflow; PC is a + 2). -/
theorem test_ret :
    (runOp 0x00EE ((State.reset.setStack [0x206, 0x30A]).setPc 0x20E)).pc = 0x30A ∧
    (runOp 0x00EE ((State.reset.setStack [0x206, 0x30A]).setPc 0x20E)).stack = [0x206] ∧
    (runOp 0x00EE State.reset).fault = some ⟨.stackUnderflow, 0x200, some 0x00EE, .nothing⟩ ∧
    (runOp 0x00EE State.reset).pc = 0x202 := by decide +kernel

/-- CF-1, CF-4: the target is not checked. -/
theorem test_jp : (runOp 0x1208 (State.reset.setPc 0x204)).pc = 0x208 ∧ (runOp 0x1FFF (State.reset.setPc 0x204)).pc = 0xFFF := by
  decide +kernel

/-- CF-5, CF-7. -/
theorem test_call :
    (runOp 0x220C (State.reset.setPc 0x204)).stack = [0x206] ∧ (runOp 0x220C (State.reset.setPc 0x204)).pc = 0x20C ∧
    (runOp 0x2400 ((State.reset.setStack (List.replicate 16 0x202)).setPc 0x300)).fault =
      some ⟨.stackOverflow, 0x300, some 0x2400, .nothing⟩ ∧
    (runOp 0x2400 ((State.reset.setStack (List.replicate 16 0x202)).setPc 0x300)).pc = 0x302 := by decide +kernel

/-- CF-6, CF-8: one entry below the capacity, and no capacity. -/
theorem test_call_boundary :
    (runOp 0x2400 ((State.reset.setStack (List.replicate 15 0x202)).setPc 0x300)).stack = List.replicate 15 0x202 ++ [0x302] ∧
    (runOp 0x2400 (quirky ((State.reset.setStack (List.replicate 16 0x202)).setPc 0x300))).stack.length = 17 := by decide +kernel

/-- CF-12, CF-13; CF-22 (the skip is unchecked at the top of memory). -/
theorem test_seImm :
    (runOp 0x3310 (State.reset.setReg 3 0x10)).pc = 0x204 ∧ (runOp 0x3311 (State.reset.setReg 3 0x10)).pc = 0x202 ∧
    (runOp 0x3000 (State.reset.setPc 0xFFE)).pc = 0x1002 := by decide +kernel

/-- CF-14, CF-15. -/
theorem test_sneImm :
    (runOp 0x4311 (State.reset.setReg 3 0x10)).pc = 0x204 ∧ (runOp 0x4310 (State.reset.setReg 3 0x10)).pc = 0x202 := by
  decide +kernel

/-- CF-16, CF-17. -/
theorem test_seReg :
    (runOp 0x5120 (regs2 1 0x7F 2 0x7F)).pc = 0x204 ∧ (runOp 0x5120 (regs2 1 0x7F 2 0x80)).pc = 0x202 := by decide +kernel

/-- CF-19, CF-20. -/
theorem test_sneReg :
    (runOp 0x9120 (regs2 1 0x7F 2 0x80)).pc = 0x204 ∧ (runOp 0x9110 (regs2 1 0x7F 2 0x80)).pc = 0x202 := by decide +kernel

/-- A-1, A-2. -/
theorem test_ldImm : (runOp 0x6A42 State.reset).reg 10 = 0x42 ∧ (runOp 0x6F05 State.reset).reg 15 = 0x05 := by decide +kernel

/-- A-3, A-5: no carry flag. -/
theorem test_addImm :
    (runOp 0x7102 (State.reset.setReg 1 0xFF)).reg 1 = 0x01 ∧ (runOp 0x7102 (State.reset.setReg 1 0xFF)).reg 15 = 0x00 ∧
    (runOp 0x7F01 (State.reset.setReg 15 0xFF)).reg 15 = 0x00 := by decide +kernel

/-- A-6. -/
theorem test_ldReg : (runOp 0x8120 (State.reset.setReg 2 0x99)).reg 1 = 0x99 := by decide +kernel

/-- A-7: VF stays. -/
theorem test_orReg :
    (runOp 0x8121 ((regs2 1 0xF0 2 0x0F).setReg 15 0x55)).reg 1 = 0xFF ∧
    (runOp 0x8121 ((regs2 1 0xF0 2 0x0F).setReg 15 0x55)).reg 15 = 0x55 := by decide +kernel

/-- A-8. -/
theorem test_andReg : (runOp 0x8122 (regs2 1 0xF0 2 0x3C)).reg 1 = 0x30 := by decide +kernel

/-- A-9. -/
theorem test_xorReg : (runOp 0x8123 (regs2 1 0xFF 2 0x0F)).reg 1 = 0xF0 := by decide +kernel

/-- A-11, A-13. -/
theorem test_addReg :
    (runOp 0x8124 (regs2 1 0xFF 2 0x01)).reg 1 = 0x00 ∧ (runOp 0x8124 (regs2 1 0xFF 2 0x01)).reg 15 = 1 ∧
    (runOp 0x8124 (regs2 1 0xFF 2 0x00)).reg 1 = 0xFF ∧ (runOp 0x8124 (regs2 1 0xFF 2 0x00)).reg 15 = 0 := by decide +kernel

/-- A-15, A-16: VF as destination under both write orders, VF as source. -/
theorem test_addReg_vf :
    (runOp 0x8F14 (regs2 15 0xFF 1 0x01)).reg 15 = 0x01 ∧ (runOp 0x8F14 (quirky (regs2 15 0xFF 1 0x01))).reg 15 = 0x00 ∧
    (runOp 0x81F4 (regs2 1 0x02 15 0x03)).reg 1 = 0x05 ∧ (runOp 0x81F4 (regs2 1 0x02 15 0x03)).reg 15 = 0 := by decide +kernel

/-- A-18, A-19. -/
theorem test_sub :
    (runOp 0x8125 (regs2 1 0x03 2 0x05)).reg 1 = 0xFE ∧ (runOp 0x8125 (regs2 1 0x03 2 0x05)).reg 15 = 0 ∧
    (runOp 0x8125 (regs2 1 0x07 2 0x07)).reg 1 = 0x00 ∧ (runOp 0x8125 (regs2 1 0x07 2 0x07)).reg 15 = 1 := by decide +kernel

/-- A-25, A-26: the shifted register under both settings. -/
theorem test_shr :
    (runOp 0x8126 (regs2 1 0x05 2 0x04)).reg 1 = 0x02 ∧ (runOp 0x8126 (regs2 1 0x05 2 0x04)).reg 15 = 1 ∧
    (runOp 0x8126 (quirky (regs2 1 0x05 2 0x04))).reg 1 = 0x02 ∧ (runOp 0x8126 (quirky (regs2 1 0x05 2 0x04))).reg 15 = 0 := by
  decide +kernel

/-- A-28, A-29. -/
theorem test_subn :
    (runOp 0x8127 (regs2 1 0x03 2 0x05)).reg 1 = 0x02 ∧ (runOp 0x8127 (regs2 1 0x03 2 0x05)).reg 15 = 1 ∧
    (runOp 0x8127 (regs2 1 0x05 2 0x03)).reg 1 = 0xFE ∧ (runOp 0x8127 (regs2 1 0x05 2 0x03)).reg 15 = 0 := by decide +kernel

/-- A-33, A-34, A-35. -/
theorem test_shl :
    (runOp 0x810E (State.reset.setReg 1 0x80)).reg 1 = 0x00 ∧ (runOp 0x810E (State.reset.setReg 1 0x80)).reg 15 = 0x01 ∧
    (runOp 0x812E (quirky (regs2 1 0x01 2 0x80))).reg 1 = 0x00 ∧ (runOp 0x812E (quirky (regs2 1 0x01 2 0x80))).reg 15 = 1 ∧
    (runOp 0x8F0E (State.reset.setReg 15 0xC0)).reg 15 = 0x01 := by decide +kernel

/-- A-38 and A-39 hold for every draw: 0 under the mask 0x00, 0x00 or 0x80 under the mask 0x80. -/
theorem test_rnd (r : Byte) : r &&& 0x00 = 0x00 ∧ (r &&& 0x80 = 0x00 ∨ r &&& 0x80 = 0x80) := by
  revert r; decide

/-- The draw goes to V[x] under the mask, and one draw is counted (R162). -/
theorem test_rnd_step :
    execRnd 3 0x0F State.reset = .next ((State.reset.setReg 3 (Config.rand 0 &&& 0x0F)).countDraw) := rfl

/-- IM-2. -/
theorem test_ldI : (runOp 0xAFFF State.reset).i = 0xFFF := by decide +kernel

/-- CF-25, CF-24. -/
theorem test_jpV0 :
    (runOp 0xBFFF (State.reset.setReg 0 0x01)).pc = 0x1000 ∧ (runOp 0xB300 (quirky (regs2 0 0x04 3 0x10))).pc = 0x310 := by
  decide +kernel

/-- IM-4, IM-5: no flag; the sum wraps at 65536 only. -/
theorem test_addI :
    (runOp 0xF21E (atI 0xFFF (State.reset.setReg 2 1))).i = 0x1000 ∧ (runOp 0xF21E (atI 0xFFFF (State.reset.setReg 2 1))).i = 0 ∧
    (runOp 0xF21E (atI 0xFFFF (State.reset.setReg 2 1))).reg 15 = 0 := by decide +kernel

/-- IM-7, IM-10. -/
theorem test_ldF :
    (runOp 0xF429 (State.reset.setReg 4 0x0A)).i = 0x032 ∧ (runOp 0xF429 (State.reset.setReg 4 0xFF)).i = 0x4FB := by decide +kernel

/-- IM-15, IM-16. -/
theorem test_ldB :
    (runOp 0xF533 (atI 0xFFD (State.reset.setReg 5 0x9C))).mem = [(0x200, 0xF5), (0x201, 0x33), (0xFFD, 1), (0xFFE, 5), (0xFFF, 6)] ∧
    (runOp 0xF533 (atI 0xFFE (State.reset.setReg 5 0x9C))).fault =
      some ⟨.memoryOutOfBounds, 0x200, some 0xF533, .address 0x1000⟩ ∧
    (runOp 0xF533 (atI 0xFFE (State.reset.setReg 5 0x9C))).mem = [(0x200, 0xF5), (0x201, 0x33)] := by decide +kernel

/-- IM-17, IM-20. -/
theorem test_store :
    (runOp 0xF155 (atI 0x400 (regs2 0 0x11 1 0x22))).mem = [(0x200, 0xF1), (0x201, 0x55), (0x400, 0x11), (0x401, 0x22)] ∧
    (runOp 0xF155 (atI 0x400 (regs2 0 0x11 1 0x22))).i = 0x400 ∧
    (runOp 0xF155 (atI 0xFFF (regs2 0 1 1 2))).fault = some ⟨.memoryOutOfBounds, 0x200, some 0xF155, .address 0x1000⟩ ∧
    (runOp 0xF155 (atI 0xFFF (regs2 0 1 1 2))).mem.read 0xFFF = 0 := by decide +kernel

/-- IM-25 (the first font byte), IM-24. -/
theorem test_load :
    (runOp 0xF065 (atI 0 State.reset)).reg 0 = 0xF0 ∧
    (runOp 0xFF65 (atI 0xFF8 State.reset)).fault = some ⟨.memoryOutOfBounds, 0x200, some 0xFF65, .address 0x1000⟩ := by
  decide +kernel

/-- The byte 0x80, 0xC0 or 0xFF at 0x300 for the draws. -/
def sprite (b : Byte) (s : State) : State := atI 0x300 (s.setMem (s.mem.put 0x300 b))

/-- DS-7 (wraps in both directions), DS-3 (collision). -/
theorem test_drw :
    (runOp 0xD011 (sprite 0xC0 (regs2 0 0xFF 1 0xFF))).fb.get 63 31 = true ∧
    (runOp 0xD011 (sprite 0xC0 (regs2 0 0xFF 1 0xFF))).fb.get 0 31 = true ∧
    (runOp 0xD011 (sprite 0x80 (State.reset.setFb (Framebuffer.clear.set 0 0 true)))).fb.get 0 0 = false ∧
    (runOp 0xD011 (sprite 0x80 (State.reset.setFb (Framebuffer.clear.set 0 0 true)))).reg 15 = 1 := by decide +kernel

/-- DS-11 (the old VF gives the column), DS-10 (no row clears VF), DS-12. -/
theorem test_drw_vf :
    (runOp 0xDF11 (sprite 0x80 (regs2 15 0x0A 1 0x03))).fb.get 10 3 = true ∧
    (runOp 0xD010 (sprite 0x80 (regs2 15 1 0 0))).reg 15 = 0 ∧
    (runOp 0xD012 (atI 0xFFF (State.reset.setReg 15 1))).fault =
      some ⟨.memoryOutOfBounds, 0x200, some 0xD012, .address 0x1000⟩ ∧
    (runOp 0xD012 (atI 0xFFF (State.reset.setReg 15 1))).reg 15 = 1 := by decide +kernel

/-- KT-1, KT-2, KT-5, KT-7. -/
theorem test_skp :
    (runOp 0xE19E ((State.reset.setReg 1 7).setKeys (keysDown [7]))).pc = 0x204 ∧ (runOp 0xE19E (State.reset.setReg 1 7)).pc = 0x202 ∧
    (runOp 0xE19E (State.reset.setReg 1 0x10)).fault = some ⟨.keyIndexOutOfRange, 0x200, some 0xE19E, .key 0x10⟩ ∧
    (runOp 0xE19E ((State.reset.setReg 1 15).setKeys (keysDown [15]))).pc = 0x204 := by decide +kernel

/-- KT-3, KT-4, KT-6. -/
theorem test_sknp :
    (runOp 0xE1A1 (State.reset.setReg 1 7)).pc = 0x204 ∧ (runOp 0xE1A1 ((State.reset.setReg 1 7).setKeys (keysDown [7]))).pc = 0x202 ∧
    (runOp 0xE1A1 (State.reset.setReg 1 0xFF)).fault = some ⟨.keyIndexOutOfRange, 0x200, some 0xE1A1, .key 0xFF⟩ := by
  decide +kernel

/-- KT-8, KT-9. -/
theorem test_ldVxK :
    (runOp 0xF50A (State.reset.setKeys (keysDown [9, 3]))).reg 5 = 3 ∧ (runOp 0xF50A (State.reset.setKeys (keysDown [9, 3]))).pc = 0x202 ∧
    (runOp 0xF50A State.reset).pc = 0x200 ∧ (runOp 0xF50A (State.reset.setReg 5 9)).reg 5 = 9 := by decide +kernel

/-- KT-12. -/
theorem test_ldVxDt : (runOp 0xF207 (State.reset.setDt 0x3C)).reg 2 = 0x3C := by decide +kernel

/-- KT-13. -/
theorem test_ldDtVx : (runOp 0xF115 (State.reset.setReg 1 7)).dt = 7 ∧ (runOp 0xF115 (State.reset.setReg 1 7)).st = 0 := by
  decide +kernel

/-- KT-14, KT-15. -/
theorem test_ldStVx :
    (runOp 0xF118 (State.reset.setReg 1 5)).st = 5 ∧ (runOp 0xF118 (State.reset.setReg 1 5)).tone = true ∧
    (runOp 0xF118 (State.reset.setSt 9)).tone = false := by decide +kernel

/-! ## Fetch, events, the host -/

/-- D-11, D-12. -/
theorem test_fetch_odd :
    (hostStep (State.reset.setPc 0x201)).fault = some ⟨.pcMisaligned, 0x201, none, .nothing⟩ ∧
    (hostStep (State.reset.setPc 0x201)).pc = 0x201 ∧
    (runOp 0x6007 (quirky (State.reset.setPc 0x201))).reg 0 = 0x07 ∧
    (runOp 0x6007 (quirky (State.reset.setPc 0x201))).pc = 0x203 := by decide +kernel

/-- D-13 to D-16. -/
theorem test_fetch_top :
    (runOp 0x1200 (State.reset.setPc 0xFFE)).pc = 0x200 ∧
    (hostStep (State.reset.setPc 0x1000)).fault = some ⟨.memoryOutOfBounds, 0x1000, none, .address 0x1000⟩ ∧
    (hostStep (quirky (State.reset.setPc 0xFFF))).fault = some ⟨.memoryOutOfBounds, 0xFFF, none, .address 0x1000⟩ ∧
    (hostStep (State.reset.setPc 0x10FE)).fault = some ⟨.memoryOutOfBounds, 0x10FE, none, .address 0x10FE⟩ := by decide +kernel

/-- D-2, F-4; the whole state. -/
theorem test_unknown :
    runOp 0x0123 State.reset =
      { State.reset.withFetchWord 16 0x0123 with pc := 0x202, events := [⟨.unknownOpcode, 0x0123, 0x200⟩] } := by decide +kernel

/-- P5: after the overflow the core is halted, and a step does nothing; F-1: a tick still acts. -/
theorem test_halted :
    step ((takeFault ⟨.stackUnderflow, 0x200, some 0x00EE, .nothing⟩ State.reset).setDt 3) =
      .fault (.halted ⟨.stackUnderflow, 0x200, some 0x00EE, .nothing⟩) ∧
    (HostOp.tick.apply ((takeFault ⟨.stackUnderflow, 0x200, some 0x00EE, .nothing⟩ State.reset).setDt 3)).1.dt = 2 :=
  ⟨rfl, rfl⟩

/-- The numbers of the faults in D-11, D-14, W10, CF-7 and KT-5. -/
theorem test_fault_numbers :
    [FaultCode.pcMisaligned, .memoryOutOfBounds, .stackUnderflow, .stackOverflow, .keyIndexOutOfRange].map FaultCode.number =
      [5, 3, 1, 2, 4] := by decide

/-- KT-17, KT-18. -/
theorem test_tick :
    (tick State.reset).dt = 0 ∧ (tick State.reset).st = 0 ∧ (tick (State.reset.setDt 0xFF)).dt = 0xFE ∧
    (tick (State.reset.setDt 0xFF)).st = 0 := by decide +kernel

/-- The font after reset: the first row of glyph 0, the last row of glyph F, and the zero after it (20_memory R62). -/
theorem test_reset_memory :
    State.reset.mem.read 0 = 0xF0 ∧ State.reset.mem.read 0x4F = 0x80 ∧ State.reset.mem.read 0x50 = 0 ∧
    State.reset.mem.read 0xFFF = 0 := by decide +kernel

/-- F-8. -/
theorem test_load_image : load [0x12, 0x00] State.reset = .ok (State.reset.setMem [(0x200, 0x12)]) := by decide +kernel

/-- W11, F-7: 3585 bytes do not fit, 3584 do. -/
theorem test_load_capacity :
    load (List.replicate 3585 0) State.reset = .error .capacityExceeded ∧
    load (List.replicate 3584 0) State.reset ≠ .error .capacityExceeded := by
  rw [load, load, if_pos (by rw [List.length_replicate]; decide), if_neg (by rw [List.length_replicate]; decide)]
  exact ⟨rfl, nofun⟩

/-- F-9: with IPF = 3 and a fault at the second step, the third is not taken and the tick still runs. -/
theorem test_frame_with_fault :
    (frame 3 (keysDown []) (((State.reset.setMem [(0x200, 0x60), (0x201, 0x05), (0x203, 0xEE)]).setDt 2))).1.fault =
      some ⟨.stackUnderflow, 0x202, some 0x00EE, .nothing⟩ ∧
    (frame 3 (keysDown []) (((State.reset.setMem [(0x200, 0x60), (0x201, 0x05), (0x203, 0xEE)]).setDt 2))).1.dt = 1 := by
  decide +kernel

/-- The assembler's listing of P3's last lines, and a padded one (30_encoding R101, R102). -/
theorem test_assemble :
    assembleAt 0x20C [.instr (.jp 0x20C), .db [0x00, 0x00], .db [0xFF, 0x81]] = [0x12, 0x0C, 0x00, 0x00, 0xFF, 0x81] ∧
    assembleAt 0x200 [.db [0xFF], .shrOne 1] = [0xFF, 0x00, 0x81, 0x06] := by decide +kernel

/-- The listings of P1, P3 and P4. -/
theorem test_spell :
    spell (.ldImm 10 0xFF) = "LD VA, 0xFF" ∧ spell (.drw 0 1 2) = "DRW V0, V1, 2" ∧ spell (.load 2) = "LD V2, [I]" ∧
    spell (.jp 0x20E) = "JP 0x20E" := by decide +kernel

/-- The word the host places runs in the very next step. -/
theorem test_withFetchWord :
    step (State.reset.withFetchWord 16 0x6A42) = exec (.ldImm 10 0x42) (State.reset.withFetchWord 16 0x6A42).advancePc ∧
    hostStep (State.reset.withFetchWord 16 0x6A42) =
      ((State.reset.setMem [(0x200, 0x6A), (0x201, 0x42)]).setPc 0x202).setReg 10 0x42 := by
  refine ⟨?_, by decide +kernel⟩
  have h : fetch (State.reset.withFetchWord 16 0x6A42) = .ok 0x6A42 := rfl
  have d : decodeWord 0x6A42 = some (.ldImm 10 0x42) := by decide
  have f : (State.reset.withFetchWord 16 0x6A42).fault = none := rfl
  simp only [step, f, h, d]

/-! ## Witnesses: states and operands that meet the hypotheses of each obligation that has any, clause by clause -/

/-- A halted state. -/
def faulted : State := takeFault ⟨.stackUnderflow, 0x1FE, some 0x00EE, .nothing⟩ State.reset

/-- A full stack and one entry below it, with the default capacity. -/
def deep (n : Nat) : State := (State.reset.setStack (List.replicate n 0x202)).setPc 0x302

theorem witness_DecodeThenEncode : decodeWord 0xD015 = some (.drw 0 1 5) ∧ State.reset.params.shiftSource = .vx := by decide

theorem witness_DecoderFollowsOpcodeMap :
    decodeWord 0x8FFE = some (.shl 15 15) ∧ decodeWord 0x8FFF = none ∧ ∀ r ∈ opcodeRows, 0x8FFF &&& r.mask ≠ r.bits := by decide

theorem witness_RowsAreDisjoint : (Instr.row (.shr 0 0)).accepts 0x8FF6 = true ∧ (Instr.row (.skp 0)).accepts 0xEF9E = true := by decide

theorem witness_FetchIsBigEndian :
    fetch (State.reset.withFetchWord 16 0x6A42) = .ok 0x6A42 ∧ fetch ((State.reset.setPc 0xFFE).withFetchWord 16 0x1200) = .ok 0x1200 :=
  ⟨rfl, rfl⟩

theorem witness_StepFetchesDecodesExecutes_faults :
    (State.reset.setPc 0x201).pc.toNat % 2 = 1 ∧ (State.reset.setPc 0x201).params.oddPcPolicy = .fault ∧
    (State.reset.setPc 0x201).fault = none ∧
    (State.reset.setPc 0x1000).pc.toNat % 2 = 0 ∧ 0xFFF < (State.reset.setPc 0x1000).pc.toNat + 1 ∧
    (quirky (State.reset.setPc 0xFFF)).params.oddPcPolicy = .fetch ∧ 0xFFF < (quirky (State.reset.setPc 0xFFF)).pc.toNat + 1 := by decide

theorem witness_StepFetchesDecodesExecutes_runs :
    (State.reset.setPc 0xFFE).pc.toNat % 2 = 0 ∧ (State.reset.setPc 0xFFE).pc.toNat + 1 ≤ 0xFFF ∧
    ((State.reset.setPc 0xFFE).withFetchWord 16 0x1200).fault = none ∧
    decode [((State.reset.setPc 0xFFE).withFetchWord 16 0x1200).mem.read 0xFFE,
      ((State.reset.setPc 0xFFE).withFetchWord 16 0x1200).mem.read 0xFFF] = .ok (.jp 0x200, []) ∧
    decode [State.reset.mem.read 0x200, State.reset.mem.read 0x201] = .error (.unknownOpcode 0x0000) := by decide +kernel

theorem witness_HaltedCoreHasNoStep :
    faulted.fault = some ⟨.stackUnderflow, 0x1FE, some 0x00EE, .nothing⟩ ∧ State.reset.fault = none ∧
    ∃ t, step State.reset = .next t := ⟨rfl, rfl, _, rfl⟩

theorem witness_EveryStepCompletes : State.reset.fault = none := rfl

/-- A step without a fault, one that ends in a fetch fault, one that ends in an execution fault. -/
theorem witness_FaultsArePrecise :
    (∃ t, step State.reset = .next t ∧ t.fault = none) ∧
    (∃ t, step (State.reset.setPc 0x1000) = .next t ∧ (t.fault.map (·.opcode)) = some none) ∧
    (∃ t, step (State.reset.withFetchWord 16 0x00EE) = .next t ∧ (t.fault.map (·.opcode)) = some (some 0x00EE)) :=
  ⟨⟨_, rfl, rfl⟩, ⟨_, rfl, rfl⟩, ⟨_, rfl, rfl⟩⟩

theorem witness_FaultAndEventExclude : ∃ t, step State.reset = .next t ∧ t.events ≠ State.reset.events :=
  ⟨_, rfl, by decide +kernel⟩

theorem witness_JumpsSetPc :
    State.reset.params.jumpOffsetReg = .v0 ∧ (quirky State.reset).params.jumpOffsetReg = .vx ∧ (15 : Reg).val = (0xFFF : Addr12).toNat / 256 := by
  decide

theorem witness_CallPushesOrOverflows :
    (deep 16).params.stackCapacity = .bounded (deep 16).stack.length ∧
    ((deep 15).params.stackCapacity = .bounded 16 ∧ (deep 15).stack.length < 16) ∧
    (quirky (deep 16)).params.stackCapacity = .unbounded := by decide

theorem witness_SkipOnRegisters : (1 : Fin 16) ≠ 0 ∧ (15 : Fin 16) ≠ 0 := by decide

theorem witness_ReturnPopsOrUnderflows :
    State.reset.stack = [] ∧ (deep 1).stack = [] ++ [0x202] ∧ (deep 2).stack = [0x202] ++ [0x202] := by decide

theorem witness_ReturnComesBackAfterCall : ∃ t u : State, (deep 15).fault = none ∧ exec (.call 0x400) (deep 15) = .next t ∧
    t.fault = none ∧ u.stack = t.stack ∧ u.pc ≠ t.pc :=
  ⟨_, { deep 0 with stack := (deep 15).stack ++ [0x302] }, rfl, rfl, rfl, rfl, by decide⟩

theorem witness_FlagWriteOrder :
    State.reset.params.vfWriteOrder = .flagLast ∧ (quirky State.reset).params.vfWriteOrder = .resultLast ∧ (3 : Reg) ≠ vF ∧
    (4 : Reg) ≠ 3 ∧ (4 : Reg) ≠ vF := by decide

theorem witness_ShiftsByOne :
    (State.reset.params.shiftSource = .vx ∧ (1 : Reg) = 1) ∧ ((quirky State.reset).params.shiftSource = .vy ∧ (2 : Reg) = 2) := by decide

theorem witness_RandomByteIsMasked : (0 : Byte) = 0 ∧ (2 : Reg) ≠ 1 ∧ (0x80 : Byte).getLsbD 7 = true := by decide

/-- The last base that fits, and the first that does not. -/
theorem witness_StoreDecimalDigits :
    (atI 0xFFD State.reset).base + 2 ≤ 0xFFF ∧ FirstOutOfBounds (atI 0xFFE State.reset).base 3 0x1000 ∧
    FirstOutOfBounds (atI 0xFFFF State.reset).base 3 0xFFFF :=
  ⟨by decide, ⟨2, by decide, by decide, by decide, by decide⟩, ⟨0, by decide, by decide, by decide, nofun⟩⟩

theorem witness_StoreRegisterBlock :
    (atI 0xFFF State.reset).base + (0 : Reg).val ≤ 0xFFF ∧ (atI 0xFF0 State.reset).base + (15 : Reg).val ≤ 0xFFF ∧ (15 : Reg) ≤ 15 ∧
    FirstOutOfBounds (atI 0xFFF State.reset).base ((1 : Reg).val + 1) 0x1000 ∧
    FirstOutOfBounds (atI 0x1000 State.reset).base ((0 : Reg).val + 1) 0x1000 :=
  ⟨by decide, by decide, by decide, ⟨1, by decide, by decide, by decide, by decide⟩, ⟨0, by decide, by decide, by decide, nofun⟩⟩

theorem witness_LoadRegisterBlock :
    (atI 0xFFF State.reset).base + (0 : Reg).val ≤ 0xFFF ∧ (atI 0xFF0 State.reset).base + (15 : Reg).val ≤ 0xFFF ∧
    FirstOutOfBounds (atI 0xFF8 State.reset).base ((15 : Reg).val + 1) 0x1000 :=
  ⟨by decide, by decide, ⟨8, by decide, by decide, by decide, by decide⟩⟩

theorem witness_StoreThenLoadRestores : ∃ t, (atI 0x400 (regs2 0 0x11 1 0x22)).fault = none ∧
    exec (.store 1) (atI 0x400 (regs2 0 0x11 1 0x22)) = .next t ∧ t.fault = none ∧ (1 : Reg) ≤ 1 :=
  ⟨_, rfl, rfl, rfl, by decide⟩

/-- Both bytes of the next opcode at the top of memory; a store that ends one byte past an odd PC, under ODD_PC_POLICY = Fetch; the
last base of `Fx33`; the highest base of `Fx55`. -/
theorem witness_StoredCodeIsFetched :
    ((State.reset.setPc 0xFFE).pc.toNat % 2 = 0 ∧ (State.reset.setPc 0xFFE).pc.toNat + 1 ≤ 0xFFF) ∧
    ((quirky (State.reset.setPc 0xFFD)).params.oddPcPolicy = .fetch ∧ (quirky (State.reset.setPc 0xFFD)).pc.toNat + 1 ≤ 0xFFF) ∧
    (atI 0xFFE (State.reset.setPc 0xFFE)).base + (1 : Reg).val ≤ 0xFFF ∧ (atI 0xFFB (State.reset.setPc 0xFFD)).base + (3 : Reg).val ≤ 0xFFF ∧
    (atI 0xFFF (State.reset.setPc 0xFFE)).base + (0 : Reg).val ≤ 0xFFF ∧ (atI 0xFFD (State.reset.setPc 0xFFE)).base + 2 ≤ 0xFFF := by
  decide

/-- R289: the digits 1, 5, 6 of 0x9C stored from 0x301 make the opcode at 0x302; V0 to V3 stored from 0x300 make the one at the odd
PC 0x301 under ODD_PC_POLICY = Fetch (R68). -/
theorem test_stored_code :
    (match execLdB 5 (atI 0x301 ((State.reset.setReg 5 0x9C).setPc 0x302)) with
      | .next t => fetch t = .ok 0x0506
      | _ => False) ∧
    (match execStore 3 (atI 0x300 (quirky (((regs2 1 0x12 2 0x34).setReg 3 0x56).setPc 0x301))) with
      | .next t => fetch t = .ok 0x1234
      | _ => False) := ⟨rfl, rfl⟩

theorem witness_MemoryPrimitives : 0xFFF < 0x1000 ∧ 0xFFF ≤ 0xFFF ∧ 0x50 ≠ 0xFFF ∧ Memory.wf [(0x300, 1)] := by decide

theorem witness_BlitTogglesOnePixel : ((63 : Fin 64), (31 : Fin 32)) ≠ (0, 0) := by decide

/-- No row at the top of I, one row in the last byte, two rows past it. -/
theorem witness_DrawIsXorWithCollision :
    ((0 : RowCount).val = 0 ∧ (atI 0xFFFF State.reset).base = 0xFFFF) ∧
    (atI 0xFFF State.reset).base + (1 : RowCount).val - 1 ≤ 0xFFF ∧
    FirstOutOfBounds (atI 0xFFF State.reset).base (2 : RowCount).val 0x1000 ∧ (14 : Reg) ≠ vF :=
  ⟨by decide, by decide, ⟨1, by decide, by decide, by decide, by decide⟩, by decide⟩

/-- Glyph 0 covers pixel (0, 0), which collides when it was set, and does not cover (0, 5). -/
theorem witness_DrawIsXorWithCollision_covers :
    SpriteCovers State.reset.mem 0 5 0 0 0 0 ∧ (Framebuffer.clear.set 0 0 true).get 0 0 = true ∧
    ¬ SpriteCovers State.reset.mem 0 5 0 0 0 5 := by
  refine ⟨⟨0, 0, by decide, by decide, by decide +kernel, by decide, by decide⟩, by decide +kernel, ?_⟩
  rintro ⟨row, col, h1, -, -, -, h2⟩
  have h3 : (5 : Fin 32).val = 5 := rfl
  omega

theorem witness_FramebufferSeenOnlyByCollision :
    (∃ t, exec (.ldImm 1 2) State.reset = .next t) ∧ (∃ t, exec .cls State.reset = .next t) ∧
    (∃ t, exec (.drw 0 0 5) State.reset = .next t) ∧ ∀ x y n, Instr.ldImm 1 2 ≠ .drw x y n :=
  ⟨⟨_, rfl⟩, ⟨_, rfl⟩, ⟨_, rfl⟩, nofun⟩

/-- Key 15 is the last, 16 the first that names no key. -/
theorem witness_SkipOnKey :
    ((State.reset.setReg 1 15).reg 1).toNat = (15 : Fin 16).val ∧ 15 < ((State.reset.setReg 1 16).reg 1).toNat := by decide

theorem witness_WaitForKey :
    ((keysDown [9, 3])[3] = true ∧ ∀ j : Fin 16, j < 3 → (keysDown [9, 3])[j.val] = false) ∧
    ((keysDown [15])[15] = true ∧ ∀ j : Fin 16, j < 15 → (keysDown [15])[j.val] = false) ∧
    ∀ k : Fin 16, State.reset.keys[k.val] = false := by decide +kernel

theorem witness_UnsatisfiedWaitSpins :
    (State.reset.withFetchWord 16 0xF50A).fault = none ∧ (State.reset.withFetchWord 16 0xF50A).pc.toNat % 2 = 0 ∧
    (State.reset.withFetchWord 16 0xF50A).pc.toNat ≤ 0xFFE ∧
    decodeWord (State.reset.withFetchWord 16 0xF50A).opcodeAtPc = some (.ldVxK 5) ∧
    ∀ k : Fin 16, (State.reset.withFetchWord 16 0xF50A).keys[k.val] = false := by decide +kernel

theorem witness_OnlyListedRegistersChange :
    (∃ t, exec (.ldImm 3 7) State.reset = .next t ∧ t.reg 3 ≠ State.reset.reg 3) ∧
    (∃ t, exec (.load 2) State.reset = .next t ∧ t.reg 1 ≠ State.reset.reg 1) ∧
    (∃ t, exec (.addReg 1 2) (regs2 1 0xFF 2 1) = .next t ∧ t.reg 15 ≠ (regs2 1 0xFF 2 1).reg 15) :=
  ⟨⟨_, rfl, by decide⟩, ⟨_, rfl, by decide +kernel⟩, ⟨_, rfl, by decide⟩⟩

theorem witness_OnlyNamedInstructionsWrite :
    (∃ t, exec (.ldI 7) State.reset = .next t ∧ t.i ≠ State.reset.i) ∧
    (∃ t, exec (.jp 7) State.reset = .next t ∧ t.pc ≠ State.reset.pc) ∧
    (∃ t, exec (.call 7) State.reset = .next t ∧ t.stack ≠ State.reset.stack) ∧
    (∃ t, exec (.ldDtVx 1) (State.reset.setReg 1 7) = .next t ∧ t.dt ≠ State.reset.dt) ∧
    (∃ t, exec (.ldStVx 1) (State.reset.setReg 1 7) = .next t ∧ t.st ≠ State.reset.st) ∧
    (∃ t, exec (.drw 0 0 5) State.reset = .next t ∧ t.fb ≠ State.reset.fb) ∧
    (∃ t, exec (.ldB 1) State.reset = .next t ∧ t.mem.read 0 ≠ State.reset.mem.read 0) ∧
    (∃ t, exec (.rnd 1 7) State.reset = .next t ∧ t.draws ≠ State.reset.draws) :=
  ⟨⟨_, rfl, by decide⟩, ⟨_, rfl, by decide⟩, ⟨_, rfl, by decide⟩, ⟨_, rfl, by decide⟩, ⟨_, rfl, by decide⟩,
    ⟨_, rfl, by decide +kernel⟩, ⟨_, rfl, by decide +kernel⟩, ⟨_, rfl, by decide⟩⟩

theorem witness_SoundTimerAndLogUnread :
    (∃ t, exec (.ldVxDt 1) State.reset = .next t) ∧ ∀ x, Instr.ldVxDt 1 ≠ .ldStVx x := ⟨⟨_, rfl⟩, nofun⟩

/-- A state with memory, stack, event log and display in use, within a call. -/
def busy : State :=
  { State.reset with
    pc := 0x302, stack := [0x206], i := 0x400, v := Vector.set (Vector.replicate 16 0) 1 7
    mem := [(0x300, 0xF1), (0x301, 0x0A), (0x302, 0xF1), (0x303, 0x55)], dt := 9, events := [⟨.unknownOpcode, 0x0123, 0x204⟩] }

/-- The invariant from the values of the fields it speaks of. -/
theorem inv_of_fields (s : State) (m : Memory) (pc : Word) (l : List Word) (es : List Event) (f : Option FaultRecord)
    (hs : s.mem = m ∧ s.pc = pc ∧ s.stack = l ∧ s.events = es ∧ s.fault = f ∧ s.params = Params.default)
    (hm : m.wf) (hp : pc.toNat ≤ 0x10FE) (hl : ∀ a ∈ l, 2 ≤ a.toNat ∧ a.toNat ≤ 0x1000) (hd : l.length ≤ 16)
    (he : ∀ e ∈ es, decodeWord e.opcode = none ∧ e.pc.toNat ≤ 0xFFE) (hf : ∀ r, f = some r → r.consistent ∧ r.leavesPc pc) : s.Inv := by
  obtain ⟨rfl, rfl, rfl, rfl, rfl, h⟩ := hs
  refine ⟨hm, hp, hl, fun n hn => ?_, he, fun r hr => (hf r hr).1, fun r hr => (hf r hr).2⟩
  rw [h, Params.default] at hn
  cases hn
  exact hd

/-- `busy` meets the invariant and steps, to a state that stores two bytes. -/
theorem witness_StepKeepsInvariant : busy.Inv ∧ ∃ t, step busy = .next t ∧ t.mem.read 0x401 = 7 := by
  refine ⟨inv_of_fields busy [(0x300, 0xF1), (0x301, 0x0A), (0x302, 0xF1), (0x303, 0x55)] 0x302 [0x206]
    [⟨.unknownOpcode, 0x0123, 0x204⟩] none ⟨rfl, rfl, rfl, rfl, rfl, rfl⟩ (by decide +kernel) (by decide +kernel) (by simp)
    (by decide +kernel) (by decide +kernel) nofun, ?_⟩
  have h : fetch busy = .ok 0xF155 := rfl
  have d : decodeWord 0xF155 = some (.store 1) := by decide
  have f : busy.fault = none := rfl
  have b : busy.advancePc.base + (1 : Reg).val ≤ 0xFFF := by decide +kernel
  simp only [step, f, h, d, exec, execStore_eq, if_pos b]
  exact ⟨_, rfl, by decide +kernel⟩

/-- A halted state meets it too. -/
theorem witness_StepKeepsInvariant_halted : faulted.Inv :=
  inv_of_fields faulted [] 0x200 [] [] (some ⟨.stackUnderflow, 0x1FE, some 0x00EE, .nothing⟩)
    ⟨rfl, rfl, rfl, rfl, rfl, rfl⟩ (by decide +kernel) (by decide +kernel) (by simp)
    (by decide +kernel) (by decide +kernel) (by rintro r h; cases h; exact ⟨rfl, rfl⟩)

theorem witness_ReachableStatesMeetInvariant :
    ∃ s, boot Params.default defaultFont [0x12, 0x00] = .ok s ∧ Reachable s ∧ Reachable (HostOp.step.apply s).1 := by
  obtain ⟨s, h⟩ : ∃ s, boot Params.default defaultFont [0x12, 0x00] = .ok s := ⟨_, rfl⟩
  have r : Reachable s := .boot _ _ _ _ (by decide) h
  exact ⟨s, h, r, .move _ _ r⟩

theorem witness_ParametersNeverChange : ∃ t, step (quirky State.reset) = .next t ∧ t.params ≠ Params.default :=
  ⟨_, rfl, by decide⟩

theorem witness_ResetValues : 0x50 ≤ 0x50 ∧ (79 : Fin 80).val + 1 = 0x50 := by decide

theorem witness_LoadCopiesImage :
    3584 < (List.replicate 3585 (0 : Byte)).length ∧ (List.replicate 3584 (0 : Byte)).length ≤ 3584 ∧
    3583 < (List.replicate 3584 (0 : Byte)).length := by simp only [List.length_replicate]; decide

theorem witness_ToneEdges :
    (∃ t, exec (.ldStVx 1) (State.reset.setReg 1 5) = .next t) ∧ (State.reset.setReg 1 5).st = 0 ∧ (State.reset.setReg 1 5).reg 1 ≠ 0 ∧
    (State.reset.setSt 9).st ≠ 0 ∧ (State.reset.setSt 9).reg 1 = 0 ∧ (State.reset.setSt 1).st = 1 :=
  ⟨⟨_, rfl⟩, by decide⟩

theorem witness_HostOperationsOnHaltedCore :
    faulted.fault = some ⟨.stackUnderflow, 0x1FE, some 0x00EE, .nothing⟩ ∧ HostOp.tick ≠ .step ∧ HostOp.tick ≠ .fault := by decide

theorem witness_TerminalLoopStays :
    (State.reset.withFetchWord 16 0x1200).fault = none ∧ (State.reset.withFetchWord 16 0x1200).atTerminalLoop = true ∧
    ((State.reset.setPc 0xFFE).withFetchWord 16 0x1FFE).atTerminalLoop = true ∧
    ((State.reset.setPc 0x202).withFetchWord 16 0x1200).atTerminalLoop = false := by decide +kernel

theorem witness_BudgetStaysInRange : (8 : Nat) ≤ 16 ∧ 8 ≤ 8 ∧ 16 ≤ 16 ∧ (FrameBudget.adjust ⟨8, 9, 16⟩ 99).ipf = 16 := by decide

end Sys2Proof.Machine.Tests
end

section
/-! The encoding statements. The decoder and the well-formedness checks of 30_encoding R95 are two lists written apart: each family's
decoder is held against the check of that family, and the dispatch on the family puts them together. -/

namespace Sys2Proof

/-! ## The decoder's selectors, as the checks of R95 write them -/

theorem fieldInst_eq_div (op : Word) : fieldInst op = op.toNat / 0x1000 :=
  Nat.mod_eq_of_lt (Nat.div_lt_of_lt_mul op.isLt)

theorem slice_low_nibble (op : Word) : slice op 3 0 = op.toNat % 16 := by simp [slice]

theorem slice_low_byte (op : Word) : slice op 7 0 = op.toNat % 256 := by simp [slice]

/-! ## Each family's decoder answers an instruction exactly when the family's check lets the opcode through -/

theorem isSome_decodeFamily0 (op : Word) :
    (if op = 0x00E0#16 then some Instr.cls else if op = 0x00EE#16 then some .ret else none).isSome = wellFormedFamily0 op := by
  rw [wellFormedFamily0]
  split
  · simp_all
  · split <;> simp_all

theorem isSome_decodeFamily5or9 (op : Word) (i : Instr) :
    (if slice op 3 0 = 0 then some i else none).isSome = wellFormedFamily5or9 op := by
  rw [wellFormedFamily5or9, ← slice_low_nibble]
  split <;> simp_all

theorem isSome_decodeFamily8 (op : Word) : (decodeFamily8 op).isSome = wellFormedFamily8 op := by
  rw [decodeFamily8, wellFormedFamily8, ← slice_low_nibble]
  split <;> simp_all

theorem isSome_decodeFamilyE (op : Word) : (decodeFamilyE op).isSome = wellFormedFamilyE op := by
  rw [decodeFamilyE, wellFormedFamilyE, ← slice_low_byte]
  split <;> simp_all

theorem isSome_decodeFamilyF (op : Word) : (decodeFamilyF op).isSome = wellFormedFamilyF op := by
  rw [decodeFamilyF, wellFormedFamilyF, ← slice_low_byte]
  split <;> simp_all

/-! ## The obligations -/

/-- Settles O5: by the sixteen families, with the check of each of the six that have a secondary field (R95). -/
theorem decoderFollowsFamilies : Obligations.DecoderFollowsFamilies := by
  intro op
  have hfam : fieldInst op < 16 := slice_lt op 15 12
  rw [decodeWord, wellFormedWord, ← fieldInst_eq_div]
  interval_cases fieldInst op
  · exact isSome_decodeFamily0 op
  iterate 4 · rfl -- families 1 to 4
  · exact isSome_decodeFamily5or9 op _
  iterate 2 · rfl -- families 6 and 7
  · exact isSome_decodeFamily8 op
  · exact isSome_decodeFamily5or9 op _
  iterate 4 · rfl -- families A to D
  · exact isSome_decodeFamilyE op
  · exact isSome_decodeFamilyF op

end Sys2Proof

namespace Sys2Proof.Machine

/-- Settles O10: the event is emitted with the address that the PC after the fetch gives, PC - 2, and `emitEvent` writes the event log
alone (R97). -/
theorem unknownOpcodeOnlyEmits : Obligations.UnknownOpcodeOnlyEmits := by
  intro s op
  rw [execUnknown, emitEvent, State.instrAddr]

end Sys2Proof.Machine
end

section
/-! The control-flow statements. An immediate skip is an update of PC alone, and a return reads the stack from its last entry: each is
said once, as an equation, and the statements are put together from the equations and the opcode's row. -/

namespace Sys2Proof.Machine

/-! ## The opcodes -/

theorem decodeWord_family3 {op : Word} (h : fieldInst op = 0x3) : decodeWord op = some (.seImm (fieldX op) (fieldNN op)) := by
  simp only [decodeWord, h]

theorem decodeWord_family4 {op : Word} (h : fieldInst op = 0x4) : decodeWord op = some (.sneImm (fieldX op) (fieldNN op)) := by
  simp only [decodeWord, h]

theorem spells_seImm (x : Reg) (nn : Byte) : Spells (.seImm x nn) 0x3000 0xF000 := by
  have hf : 3 < 16 := by decide
  refine ⟨Laws.InRow.family_row_xnn 3 hf x nn, ?_⟩
  rw [encode, decodeWord_family3 (fieldInst_wordXNN 3 hf x nn.isLt), fieldX_wordXNN 3 hf x nn.isLt, fieldNN_wordXNN 3 hf]

theorem spells_sneImm (x : Reg) (nn : Byte) : Spells (.sneImm x nn) 0x4000 0xF000 := by
  have hf : 4 < 16 := by decide
  refine ⟨Laws.InRow.family_row_xnn 4 hf x nn, ?_⟩
  rw [encode, decodeWord_family4 (fieldInst_wordXNN 4 hf x nn.isLt), fieldX_wordXNN 4 hf x nn.isLt, fieldNN_wordXNN 4 hf]

theorem spells_ret : Spells .ret 0x00EE 0xFFFF := by
  rw [Spells]
  decide

/-! ## The skips -/

/-- A skip as one update of PC (R130). -/
theorem skipIf_eq (s : State) (c : Bool) : s.skipIf c = { s with pc := if c then s.pc + 2 else s.pc } := by
  cases c <;> rfl

theorem exec_seImm (x : Reg) (nn : Byte) (s : State) : exec (.seImm x nn) s = .next (s.skipIf (s.reg x == nn)) := rfl

theorem exec_sneImm (x : Reg) (nn : Byte) (s : State) : exec (.sneImm x nn) s = .next (s.skipIf (s.reg x != nn)) := rfl

/-! ## The return -/

/-- R241. -/
theorem exec_ret_of_stack_nil {s : State} (h : s.stack = []) :
    exec .ret s = raiseFault .ret .stackUnderflow .nothing s := by
  have htop : s.top = none := by rw [State.top, h, List.getLast?_nil]
  simp only [exec, execRet, htop]

/-- R123. -/
theorem exec_ret_of_stack_concat {s : State} {below : List Word} {a : Word} (h : s.stack = below ++ [a]) :
    exec .ret s = .next ((s.setStack below).setPc a) := by
  have htop : s.top = some a := by rw [State.top, h, List.getLast?_concat]
  have hdrop : s.drop = s.setStack below := by rw [State.drop, h, List.dropLast_concat]
  simp only [exec, execRet, htop, hdrop]

/-! ## The obligations -/

/-- Settles O15: both skips are `skipIf` on their condition, an update of PC alone (R126, R127, R130). -/
theorem skipOnImmediate : Obligations.SkipOnImmediate := by
  intro x nn s
  refine ⟨spells_seImm x nn, spells_sneImm x nn, ?_, ?_⟩
  · simp only [exec_seImm, skipIf_eq, beq_iff_eq]
  · simp only [exec_sneImm, skipIf_eq, bne_iff_ne]

/-- Settles O19: by the two shapes of the stack, empty and with a last entry (R123, R241). -/
theorem returnPopsOrUnderflows : Obligations.ReturnPopsOrUnderflows := by
  refine ⟨spells_ret, fun s h => ?_, fun s below a h => ?_⟩
  · rw [Faults, exec_ret_of_stack_nil h, raiseFault_eq]
  · rw [exec_ret_of_stack_concat h, State.setPc, State.setStack]

end Sys2Proof.Machine
end

section
/-! The register file and the ALU. An instruction without a flag is one `setReg`, one with a flag is one `writeResultAndFlag`: what the
registers then hold is said once for each of the two, and each statement is put together from that, the arithmetic of its result and its
flag, and the opcode's row. -/

namespace Sys2Proof.Machine

/-! ## The opcodes -/

/-- An instruction whose family `f` has the fields x and nn alone. -/
theorem spells_of_family_xnn (f : Nat) (hf : f < 16) (mk : Reg → Byte → Instr) (x : Reg) (nn : Byte)
    (henc : encode (mk x nn) = wordXNN (f * 0x1000) x nn.toNat)
    (hdec : ∀ op, fieldInst op = f → decodeWord op = some (mk (fieldX op) (fieldNN op))) :
    Spells (mk x nn) (BitVec.ofNat 16 (f * 0x1000)) 0xF000 := by
  rw [Spells, henc]
  refine ⟨Laws.InRow.family_row_xnn f hf x nn, ?_⟩
  rw [hdec _ (fieldInst_wordXNN f hf x nn.isLt), fieldX_wordXNN f hf x nn.isLt, fieldNN_wordXNN f hf]

/-- An instruction of family 8 with selector `n`. -/
theorem spells_of_family8 {n : Nat} (hn : n < 16) (mk : Reg → Reg → Instr) (x y : Reg)
    (henc : encode (mk x y) = wordXYN 0x8000 x y n)
    (hdec : ∀ op, slice op 3 0 = n → decodeFamily8 op = some (mk (fieldX op) (fieldY op))) :
    Spells (mk x y) (BitVec.ofNat 16 (0x8000 + n)) 0xF00F := by
  have hf : 8 < 16 := by decide
  have hfam : decodeWord (wordXYN 0x8000 x y n) = decodeFamily8 (wordXYN 0x8000 x y n) := by
    simp only [decodeWord, fieldInst_wordXYN 8 hf x y hn]
  rw [Spells, henc, hfam]
  refine ⟨Laws.InRow.family_row 8 hf x y hn, ?_⟩
  rw [hdec _ (selectorN_wordXYN 8 hf x y hn), fieldX_wordXYN 8 hf x y hn, fieldY_wordXYN 8 hf x y hn]

theorem spells_ldImm (x : Reg) (nn : Byte) : Spells (.ldImm x nn) 0x6000 0xF000 :=
  spells_of_family_xnn 6 (by decide) .ldImm x nn rfl fun _ h => by simp only [decodeWord, h]

theorem spells_addImm (x : Reg) (nn : Byte) : Spells (.addImm x nn) 0x7000 0xF000 :=
  spells_of_family_xnn 7 (by decide) .addImm x nn rfl fun _ h => by simp only [decodeWord, h]

theorem spells_ldReg (x y : Reg) : Spells (.ldReg x y) 0x8000 0xF00F :=
  spells_of_family8 (n := 0) (by decide) .ldReg x y rfl fun _ h => by simp only [decodeFamily8, h]

theorem spells_addReg (x y : Reg) : Spells (.addReg x y) 0x8004 0xF00F :=
  spells_of_family8 (n := 4) (by decide) .addReg x y rfl fun _ h => by simp only [decodeFamily8, h]

theorem spells_sub (x y : Reg) : Spells (.sub x y) 0x8005 0xF00F :=
  spells_of_family8 (n := 5) (by decide) .sub x y rfl fun _ h => by simp only [decodeFamily8, h]

theorem spells_subn (x y : Reg) : Spells (.subn x y) 0x8007 0xF00F :=
  spells_of_family8 (n := 7) (by decide) .subn x y rfl fun _ h => by simp only [decodeFamily8, h]

/-! ## The two ways of writing registers -/

theorem regsBecome_of_setReg {i : Instr} {s : State} {x : Reg} {b : Byte} (h : exec i s = .next (s.setReg x b)) :
    RegsBecome i s (fun r => if r = x then b else s.reg r) :=
  ⟨(s.setReg x b).v, h, fun r => reg_setReg s x r b⟩

/-- Both orders of R150 update the registers alone. -/
theorem writeResultAndFlag_eq (s : State) (x : Reg) (res : Byte) (f : Bool) :
    s.writeResultAndFlag x res f = { s with v := (s.writeResultAndFlag x res f).v } := by
  unfold State.writeResultAndFlag
  split <;> rfl

theorem regsBecome_of_writeResultAndFlag {i : Instr} {s : State} {x : Reg} {res : Byte} {f : Bool}
    (h : exec i s = .next (s.writeResultAndFlag x res f)) : RegsBecome i s (flagWritten s x res (flagByte f)) :=
  ⟨(s.writeResultAndFlag x res f).v, by rw [h, ← writeResultAndFlag_eq], fun r => reg_writeResultAndFlag s x r res f⟩

/-! ## Results and flags as arithmetic -/

theorem sub_eq_ofInt (a b : Byte) : a - b = BitVec.ofInt 8 ((a.toNat : Int) - b.toNat) := by
  apply BitVec.eq_of_toNat_eq
  rw [BitVec.toNat_sub, BitVec.toNat_ofInt]
  omega

theorem flagByte_carryFlag (a b : Byte) : flagByte (carryFlag a b) = if 255 < a.toNat + b.toNat then 1 else 0 := by
  simp only [flagByte, carryFlag, decide_eq_true_eq, gt_iff_lt]

theorem flagByte_notBorrowFlag (a b : Byte) : flagByte (notBorrowFlag a b) = if b.toNat ≤ a.toNat then 1 else 0 := by
  simp only [flagByte, notBorrowFlag, decide_eq_true_eq]

/-! ## The obligations -/

/-- Settles O21: each of the three is one `setReg` of V[x], with no flag (R151, R152, R153). -/
theorem registerLoadsAndAddImmediate : Obligations.RegisterLoadsAndAddImmediate := by
  intro x y nn s
  refine ⟨spells_ldImm x nn, spells_addImm x nn, spells_ldReg x y, regsBecome_of_setReg rfl, ?_, regsBecome_of_setReg rfl⟩
  rw [← BitVec.add_def]
  exact regsBecome_of_setReg rfl

/-- Settles O24: one `writeResultAndFlag` with the sum and its carry (R157). -/
theorem addWithCarry : Obligations.AddWithCarry := by
  intro x y s
  refine ⟨spells_addReg x y, ?_⟩
  rw [← BitVec.add_def, ← flagByte_carryFlag]
  exact regsBecome_of_writeResultAndFlag rfl

/-- Settles O25: one `writeResultAndFlag` with a difference and its not-borrow flag, the operands in either order (R158, R160). -/
theorem subtractBothWays : Obligations.SubtractBothWays := by
  intro x y s
  refine ⟨spells_sub x y, spells_subn x y, ?_, ?_⟩
  · rw [← sub_eq_ofInt, ← flagByte_notBorrowFlag]
    exact regsBecome_of_writeResultAndFlag rfl
  · rw [← sub_eq_ofInt, ← flagByte_notBorrowFlag]
    exact regsBecome_of_writeResultAndFlag rfl

end Sys2Proof.Machine
end

section
/-! The display statements. Every instruction but CLS and DRW only carries the framebuffer along: replacing it commutes with the
operations over the state, and so with the instruction. A draw replaces it and VF (43_display R204). -/

namespace Sys2Proof.Machine

/-! ## Replacing the framebuffer commutes with the operations that branch -/

theorem setFb_skipIf (s : State) (f : Framebuffer) (c : Bool) : (s.setFb f).skipIf c = (s.skipIf c).setFb f := by
  cases c <;> rfl

theorem setFb_writeResultAndFlag (s : State) (f : Framebuffer) (x : Reg) (res : Byte) (flag : Bool) :
    (s.setFb f).writeResultAndFlag x res flag = (s.writeResultAndFlag x res flag).setFb f := by
  simp only [State.writeResultAndFlag, setFb_params]
  split <;> rfl

/-! ## Replacing the framebuffer commutes with every instruction that does not write it -/

/-- The answer with its next state, if it has one, changed by `g`. -/
def mapNext (g : State → State) : StepResult → StepResult
  | .next t => .next (g t)
  | .fault r => .fault r
  | .refused r => .refused r

theorem mapNext_next (g : State → State) (t : State) : mapNext g (.next t) = .next (g t) := rfl

theorem exec_ret_setFb (s : State) (f : Framebuffer) : exec .ret (s.setFb f) = mapNext (·.setFb f) (exec .ret s) := by
  rcases List.eq_nil_or_concat' s.stack with h | ⟨below, a, h⟩
  · rw [exec_ret_of_stack_nil h, exec_ret_of_stack_nil (s := s.setFb f) h]
    rfl
  · rw [exec_ret_of_stack_concat h, exec_ret_of_stack_concat (s := s.setFb f) h]
    rfl

theorem exec_ldVxK_setFb (s : State) (f : Framebuffer) (x : Reg) :
    exec (.ldVxK x) (s.setFb f) = mapNext (·.setFb f) (exec (.ldVxK x) s) := by
  simp only [exec, execLdVxK, setFb_keys]
  split <;> rfl

/-- Every condition and every value written is read from other fields, so a fault, a skip or a transfer goes the same way (R204). -/
theorem exec_setFb {i : Instr} (hcls : i ≠ .cls) (hdrw : ∀ x y n, i ≠ .drw x y n) (s : State) (f : Framebuffer) :
    exec i (s.setFb f) = mapNext (·.setFb f) (exec i s) := by
  cases i with
  | cls => exact absurd rfl hcls
  | drw x y n => exact absurd rfl (hdrw x y n)
  | ret => exact exec_ret_setFb s f
  | ldVxK x => exact exec_ldVxK_setFb s f x
  | seImm | sneImm | seReg | sneReg => exact congrArg _ (setFb_skipIf s f _)
  | addReg | sub | shr | subn | shl => exact congrArg _ (setFb_writeResultAndFlag s f _ _ _)
  | call nnn => simp only [exec, execCall, apply_ite (mapNext _)]; rfl
  | skp x => simp only [exec, execSkp, apply_ite (mapNext _), mapNext_next, ← setFb_skipIf]; rfl
  | sknp x => simp only [exec, execSknp, apply_ite (mapNext _), mapNext_next, ← setFb_skipIf]; rfl
  | ldB x => simp only [exec, execLdB_eq, apply_ite (mapNext _)]; rfl
  | store x => simp only [exec, execStore_eq, apply_ite (mapNext _)]; rfl
  | load x => simp only [exec, execLoad_eq, apply_ite (mapNext _)]; rfl
  | _ => rfl

/-! ## The two instructions that write the framebuffer -/

theorem spells_cls : Spells .cls 0x00E0 0xFFFF := by
  rw [Spells]
  decide

theorem exec_cls (s : State) : exec .cls s = .next (s.setFb Framebuffer.clear) := rfl

theorem setReg_reg (s : State) (r : Reg) : s.setReg r (s.reg r) = s := by
  rw [State.setReg, State.reg, Vector.set_getElem_self]

/-- A second write of FB and of one register leaves nothing of the first. -/
theorem setFb_setReg_overwritten (s : State) (f f' : Framebuffer) (r : Reg) (b b' : Byte) :
    (((s.setFb f).setReg r b).setFb f').setReg r b' = (s.setFb f').setReg r b' := by
  simp only [State.setReg, State.setFb, Vector.set_set]

/-- A draw over another framebuffer answers the same state but for FB and VF: its two writes are made over the old values, and its
fault does not depend on them (R202, R204). -/
theorem exec_drw_setFb {x y : Reg} {n : RowCount} {s t : State} (f : Framebuffer) (h : exec (.drw x y n) s = .next t) :
    ∃ (f' : Framebuffer) (b : Byte), exec (.drw x y n) (s.setFb f) = .next ((t.setFb f').setReg vF b) := by
  simp only [exec, execDrw_eq] at h ⊢
  by_cases hbound : n.val = 0 ∨ s.base + n.val ≤ 0x1000
  · rw [if_pos hbound] at h
    cases h
    simp only [setFb_setReg_overwritten]
    exact ⟨_, _, if_pos hbound⟩
  · rw [if_neg hbound, raiseFault_eq] at h
    cases h
    exact ⟨f, s.reg vF, (if_neg hbound).trans (congrArg _ (setReg_reg _ vF).symm)⟩

/-! ## The obligations -/

/-- Settles O36: CLS is one `setFb`, with the framebuffer whose every pixel is false (R201). -/
theorem clearDisplay : Obligations.ClearDisplay :=
  ⟨spells_cls, fun s => ⟨Framebuffer.clear, exec_cls s, get_clear⟩⟩

/-- Settles O38: CLS overwrites either framebuffer, DRW differs in FB and VF, and all others carry the framebuffer along (R204). -/
theorem framebufferSeenOnlyByCollision : Obligations.FramebufferSeenOnlyByCollision := by
  refine ⟨fun i s t f h hdrw => ?_, fun x y n s t f h => exec_drw_setFb f h⟩
  by_cases hcls : i = .cls
  · subst hcls
    rw [exec_cls] at h
    cases h
    rfl
  · rw [if_neg hcls]
    exact (exec_setFb hcls hdrw s f).trans (congrArg (mapNext (·.setFb f)) h)

end Sys2Proof.Machine
end

section
/-! The timer statements. Each of the three moves is one `setReg`, `setDt` or `setSt`, in a row of family F that its selector nn names;
the tone level is a function of ST alone (44_input_timers R223 to R225). -/

namespace Sys2Proof.Machine

/-! ## The opcodes -/

/-- An instruction of family F with selector `n`. -/
theorem spells_of_familyF {n : Nat} (hn : n < 256) (mk : Reg → Instr) (x : Reg) (henc : encode (mk x) = wordXNN 0xF000 x n)
    (hdec : ∀ op, slice op 7 0 = n → decodeFamilyF op = some (mk (fieldX op))) :
    Spells (mk x) (BitVec.ofNat 16 (0xF000 + n)) 0xF0FF := by
  have hf : 15 < 16 := by decide
  have hfam : decodeWord (wordXNN 0xF000 x n) = decodeFamilyF (wordXNN 0xF000 x n) := by
    simp only [decodeWord, fieldInst_wordXNN 15 hf x hn]
  rw [Spells, henc, hfam]
  refine ⟨Laws.InRow.family_row_sel 15 hf x hn, ?_⟩
  rw [hdec _ (selectorNN_wordXNN 15 hf x hn), fieldX_wordXNN 15 hf x hn]

theorem spells_ldVxDt (x : Reg) : Spells (.ldVxDt x) 0xF007 0xF0FF :=
  spells_of_familyF (n := 0x07) (by decide) .ldVxDt x rfl fun _ h => by simp only [decodeFamilyF, h]

theorem spells_ldDtVx (x : Reg) : Spells (.ldDtVx x) 0xF015 0xF0FF :=
  spells_of_familyF (n := 0x15) (by decide) .ldDtVx x rfl fun _ h => by simp only [decodeFamilyF, h]

theorem spells_ldStVx (x : Reg) : Spells (.ldStVx x) 0xF018 0xF0FF :=
  spells_of_familyF (n := 0x18) (by decide) .ldStVx x rfl fun _ h => by simp only [decodeFamilyF, h]

/-! ## The moves and the tone level -/

theorem exec_ldVxDt (x : Reg) (s : State) : exec (.ldVxDt x) s = .next (s.setReg x s.dt) := rfl

theorem exec_ldDtVx (x : Reg) (s : State) : exec (.ldDtVx x) s = .next (s.setDt (s.reg x)) := rfl

theorem exec_ldStVx (x : Reg) (s : State) : exec (.ldStVx x) s = .next (s.setSt (s.reg x)) := rfl

/-- R255: the level is on exactly when ST is not 0. -/
theorem tone_eq_decide (s : State) : s.tone = decide (s.st ≠ 0) := by
  rw [State.tone, bne, Bool.beq_eq_decide_eq, ← decide_not]

/-! ## The obligations -/

/-- Settles O41: each move is one update of V[x], DT or ST, and the tone level is read from the ST just written (R223, R224, R225). -/
theorem timerMoves : Obligations.TimerMoves := by
  intro x s
  refine ⟨spells_ldVxDt x, spells_ldDtVx x, spells_ldStVx x, regsBecome_of_setReg (exec_ldVxDt x s), ?_, ?_, ?_⟩
  · rw [exec_ldDtVx, State.setDt]
  · rw [exec_ldStVx, State.setSt]
  · exact tone_eq_decide { s with st := s.reg x }

end Sys2Proof.Machine
end

section
/-! The host's statements. A tick is one `setDt` and one `setSt` with the counters counted down, and `set_keys` is one `setKeys`: the
arithmetic is that of one counter, which never wraps (60_exceptions R254, R262). -/

namespace Sys2Proof.Machine

/-! ## One counter -/

/-- R254: subtraction on the natural numbers saturates as the counter does. -/
theorem countDown_toNat (b : Byte) : (countDown b).toNat = b.toNat - 1 := by
  rw [countDown]
  split
  case isTrue hpos => exact BitVec.toNat_sub_of_le (BitVec.le_def.mpr hpos)
  case isFalse hzero => omega

/-! ## The obligations -/

/-- Settles O52: the tick writes DT and ST and nothing else, each counted down by itself (R254). -/
theorem tickCountsDown : Obligations.TickCountsDown := by
  intro s
  refine ⟨countDown s.dt, countDown s.st, ?_, countDown_toNat s.dt, countDown_toNat s.st⟩
  rw [tick, State.setSt, State.setDt]

/-- Settles O53: `set_keys` is the one update `setKeys` (R262). -/
theorem setKeysReplacesSnapshot : Obligations.SetKeysReplacesSnapshot := by
  intro k s
  rw [hostSetKeys, State.setKeys]

end Sys2Proof.Machine
end

section
/-! The statement about `load`. It is one `setMem` of a block store at 0x200 when the image fits; the image's bytes and all others are
then read through the law of a block store, and no byte's value is looked at (70_reset R283, R284). -/

namespace Sys2Proof.Machine

/-! ## A read inside and outside a stored block -/

theorem read_putBlock_inside (m : Memory) (a : Nat) {bs : List Byte} {k : Nat} (hk : k < bs.length) :
    (m.putBlock a bs).read (a + k) = bs[k] := by
  rw [read_putBlock, if_pos (Nat.le_add_right a k), Nat.add_sub_cancel_left, List.getD_eq_getElem _ _ hk]

theorem read_putBlock_outside (m : Memory) {a c : Nat} {bs : List Byte} (hc : c < a ∨ a + bs.length ≤ c) :
    (m.putBlock a bs).read c = m.read c := by
  rw [read_putBlock]
  rcases hc with hbelow | habove
  · exact if_neg (Nat.not_le.mpr hbelow)
  · rw [if_pos (Nat.le_of_add_right_le habove), List.getD_eq_default _ _ (Nat.le_sub_of_add_le' habove)]

/-! ## The two outcomes of `load` -/

theorem load_of_exceeds {bytes : List Byte} (h : 3584 < bytes.length) (s : State) : load bytes s = .error .capacityExceeded :=
  if_pos h

theorem load_of_fits {bytes : List Byte} (h : bytes.length ≤ 3584) (s : State) :
    load bytes s = .ok (s.setMem (s.mem.putBlock 0x200 bytes)) :=
  if_neg (Nat.not_lt.mpr h)

/-! ## The obligation -/

/-- Settles O51: an image that fits is one block store at 0x200, read back inside and outside the block; a longer one is refused before
anything is stored (R283, R284). -/
theorem loadCopiesImage : Obligations.LoadCopiesImage := by
  intro bytes s
  refine ⟨fun hlong => load_of_exceeds hlong s, fun hfits => ⟨s.mem.putBlock 0x200 bytes, ?_, ?_, ?_⟩⟩
  · rw [load_of_fits hfits, State.setMem]
  · exact fun k hk => read_putBlock_inside s.mem 0x200 hk
  · exact fun a ha => read_putBlock_outside s.mem ha

end Sys2Proof.Machine
end

section
/-! The encoding statements for all instructions. An instruction's opcode decodes to it, row by row; an opcode that decodes is put
together again from its own fields; and the opcodes that no row matches are counted through the checks of R95, whose selector repeats
with the low nibble or the low byte (30_encoding R90 to R98). -/

namespace Sys2Proof.Machine

/-! ## The opcodes of the rows not yet said -/

/-- An instruction whose family `f` has the field nnn alone. -/
theorem spells_of_family_nnn (f : Nat) (hf : f < 16) (mk : Addr12 → Instr) (nnn : Addr12)
    (henc : encode (mk nnn) = wordNNN (f * 0x1000) nnn) (hdec : ∀ op, fieldInst op = f → decodeWord op = some (mk (fieldNNN op))) :
    Spells (mk nnn) (BitVec.ofNat 16 (f * 0x1000)) 0xF000 := by
  rw [Spells, henc]
  refine ⟨Laws.InRow.family_row_nnn f hf nnn, ?_⟩
  rw [hdec _ (fieldInst_wordNNN f hf nnn), fieldNNN_wordNNN f hf]

/-- An instruction whose family `f` has the fields x and y, with n = 0. -/
theorem spells_of_family_xy0 (f : Nat) (hf : f < 16) (mk : Reg → Reg → Instr) (x y : Reg)
    (henc : encode (mk x y) = wordXYN (f * 0x1000) x y 0)
    (hdec : ∀ op, fieldInst op = f → slice op 3 0 = 0 → decodeWord op = some (mk (fieldX op) (fieldY op))) :
    Spells (mk x y) (BitVec.ofNat 16 (f * 0x1000)) 0xF00F := by
  have hn : 0 < 16 := by decide
  rw [Spells, henc]
  refine ⟨(Laws.InRow.family_row f hf x y hn).trans (by rw [Nat.add_zero]), ?_⟩
  rw [hdec _ (fieldInst_wordXYN f hf x y hn) (selectorN_wordXYN f hf x y hn), fieldX_wordXYN f hf x y hn, fieldY_wordXYN f hf x y hn]

/-- An instruction of family E with selector `n`. -/
theorem spells_of_familyE {n : Nat} (hn : n < 256) (mk : Reg → Instr) (x : Reg) (henc : encode (mk x) = wordXNN 0xE000 x n)
    (hdec : ∀ op, slice op 7 0 = n → decodeFamilyE op = some (mk (fieldX op))) :
    Spells (mk x) (BitVec.ofNat 16 (0xE000 + n)) 0xF0FF := by
  have hf : 14 < 16 := by decide
  have hfam : decodeWord (wordXNN 0xE000 x n) = decodeFamilyE (wordXNN 0xE000 x n) := by
    simp only [decodeWord, fieldInst_wordXNN 14 hf x hn]
  rw [Spells, henc, hfam]
  refine ⟨Laws.InRow.family_row_sel 14 hf x hn, ?_⟩
  rw [hdec _ (selectorNN_wordXNN 14 hf x hn), fieldX_wordXNN 14 hf x hn]

theorem spells_jp (nnn : Addr12) : Spells (.jp nnn) 0x1000 0xF000 :=
  spells_of_family_nnn 1 (by decide) .jp nnn rfl fun _ h => by simp only [decodeWord, h]

theorem spells_call (nnn : Addr12) : Spells (.call nnn) 0x2000 0xF000 :=
  spells_of_family_nnn 2 (by decide) .call nnn rfl fun _ h => by simp only [decodeWord, h]

theorem spells_ldI (nnn : Addr12) : Spells (.ldI nnn) 0xA000 0xF000 :=
  spells_of_family_nnn 10 (by decide) .ldI nnn rfl fun _ h => by simp only [decodeWord, h]

theorem spells_jpV0 (nnn : Addr12) : Spells (.jpV0 nnn) 0xB000 0xF000 :=
  spells_of_family_nnn 11 (by decide) .jpV0 nnn rfl fun _ h => by simp only [decodeWord, h]

theorem spells_seReg (x y : Reg) : Spells (.seReg x y) 0x5000 0xF00F :=
  spells_of_family_xy0 5 (by decide) .seReg x y rfl fun _ h hn => by simp only [decodeWord, h, hn, if_true]

theorem spells_sneReg (x y : Reg) : Spells (.sneReg x y) 0x9000 0xF00F :=
  spells_of_family_xy0 9 (by decide) .sneReg x y rfl fun _ h hn => by simp only [decodeWord, h, hn, if_true]

theorem spells_orReg (x y : Reg) : Spells (.orReg x y) 0x8001 0xF00F :=
  spells_of_family8 (n := 1) (by decide) .orReg x y rfl fun _ h => by simp only [decodeFamily8, h]

theorem spells_andReg (x y : Reg) : Spells (.andReg x y) 0x8002 0xF00F :=
  spells_of_family8 (n := 2) (by decide) .andReg x y rfl fun _ h => by simp only [decodeFamily8, h]

theorem spells_xorReg (x y : Reg) : Spells (.xorReg x y) 0x8003 0xF00F :=
  spells_of_family8 (n := 3) (by decide) .xorReg x y rfl fun _ h => by simp only [decodeFamily8, h]

theorem spells_shr (x y : Reg) : Spells (.shr x y) 0x8006 0xF00F :=
  spells_of_family8 (n := 6) (by decide) .shr x y rfl fun _ h => by simp only [decodeFamily8, h]

theorem spells_shl (x y : Reg) : Spells (.shl x y) 0x800E 0xF00F :=
  spells_of_family8 (n := 14) (by decide) .shl x y rfl fun _ h => by simp only [decodeFamily8, h]

theorem spells_rnd (x : Reg) (nn : Byte) : Spells (.rnd x nn) 0xC000 0xF000 :=
  spells_of_family_xnn 12 (by decide) .rnd x nn rfl fun _ h => by simp only [decodeWord, h]

theorem spells_drw (x y : Reg) (n : RowCount) : Spells (.drw x y n) 0xD000 0xF000 := by
  have hf : 13 < 16 := by decide
  refine ⟨Laws.InRow.family_row_xyn 13 hf x y n, ?_⟩
  rw [encode]
  simp only [decodeWord, fieldInst_wordXYN 13 hf x y n.isLt, fieldX_wordXYN 13 hf x y n.isLt, fieldY_wordXYN 13 hf x y n.isLt,
    fieldN_wordXYN 13 hf]

theorem spells_skp (x : Reg) : Spells (.skp x) 0xE09E 0xF0FF :=
  spells_of_familyE (n := 0x9E) (by decide) .skp x rfl fun _ h => by simp only [decodeFamilyE, h]

theorem spells_sknp (x : Reg) : Spells (.sknp x) 0xE0A1 0xF0FF :=
  spells_of_familyE (n := 0xA1) (by decide) .sknp x rfl fun _ h => by simp only [decodeFamilyE, h]

theorem spells_ldVxK (x : Reg) : Spells (.ldVxK x) 0xF00A 0xF0FF :=
  spells_of_familyF (n := 0x0A) (by decide) .ldVxK x rfl fun _ h => by simp only [decodeFamilyF, h]

theorem spells_addI (x : Reg) : Spells (.addI x) 0xF01E 0xF0FF :=
  spells_of_familyF (n := 0x1E) (by decide) .addI x rfl fun _ h => by simp only [decodeFamilyF, h]

theorem spells_ldF (x : Reg) : Spells (.ldF x) 0xF029 0xF0FF :=
  spells_of_familyF (n := 0x29) (by decide) .ldF x rfl fun _ h => by simp only [decodeFamilyF, h]

theorem spells_ldB (x : Reg) : Spells (.ldB x) 0xF033 0xF0FF :=
  spells_of_familyF (n := 0x33) (by decide) .ldB x rfl fun _ h => by simp only [decodeFamilyF, h]

theorem spells_store (x : Reg) : Spells (.store x) 0xF055 0xF0FF :=
  spells_of_familyF (n := 0x55) (by decide) .store x rfl fun _ h => by simp only [decodeFamilyF, h]

theorem spells_load (x : Reg) : Spells (.load x) 0xF065 0xF0FF :=
  spells_of_familyF (n := 0x65) (by decide) .load x rfl fun _ h => by simp only [decodeFamilyF, h]

end Sys2Proof.Machine

namespace Sys2Proof

open Machine

/-! ## Decoding an encoding -/

theorem decodeWord_encode (i : Instr) : decodeWord (encode i) = some i := by
  cases i with
  | cls => exact spells_cls.2
  | ret => exact spells_ret.2
  | jp nnn => exact (spells_jp nnn).2
  | call nnn => exact (spells_call nnn).2
  | seImm x nn => exact (spells_seImm x nn).2
  | sneImm x nn => exact (spells_sneImm x nn).2
  | seReg x y => exact (spells_seReg x y).2
  | ldImm x nn => exact (spells_ldImm x nn).2
  | addImm x nn => exact (spells_addImm x nn).2
  | ldReg x y => exact (spells_ldReg x y).2
  | orReg x y => exact (spells_orReg x y).2
  | andReg x y => exact (spells_andReg x y).2
  | xorReg x y => exact (spells_xorReg x y).2
  | addReg x y => exact (spells_addReg x y).2
  | sub x y => exact (spells_sub x y).2
  | shr x y => exact (spells_shr x y).2
  | subn x y => exact (spells_subn x y).2
  | shl x y => exact (spells_shl x y).2
  | sneReg x y => exact (spells_sneReg x y).2
  | ldI nnn => exact (spells_ldI nnn).2
  | jpV0 nnn => exact (spells_jpV0 nnn).2
  | rnd x nn => exact (spells_rnd x nn).2
  | drw x y n => exact (spells_drw x y n).2
  | skp x => exact (spells_skp x).2
  | sknp x => exact (spells_sknp x).2
  | ldVxDt x => exact (spells_ldVxDt x).2
  | ldVxK x => exact (spells_ldVxK x).2
  | ldDtVx x => exact (spells_ldDtVx x).2
  | ldStVx x => exact (spells_ldStVx x).2
  | addI x => exact (spells_addI x).2
  | ldF x => exact (spells_ldF x).2
  | ldB x => exact (spells_ldB x).2
  | store x => exact (spells_store x).2
  | load x => exact (spells_load x).2

/-- Fetch is big-endian (20_memory R67). -/
theorem toNat_wordOfBytes (hi lo : Byte) : (wordOfBytes hi lo).toNat = hi.toNat * 256 + lo.toNat := by
  have hlo : lo.toNat < 2 ^ 8 := lo.isLt
  have hhi : hi.toNat < 2 ^ 8 := hi.isLt
  have hshift : (zextByte hi <<< 8).toNat = 2 ^ 8 * hi.toNat := by
    simp only [zextByte, BitVec.toNat_shiftLeft, BitVec.toNat_setWidth, Nat.shiftLeft_eq]
    omega
  have hzext : (zextByte lo).toNat = lo.toNat := by
    simp only [zextByte, BitVec.toNat_setWidth]
    omega
  rw [wordOfBytes, BitVec.toNat_or, hshift, hzext, ← Nat.two_pow_add_eq_or_of_lt hlo]
  omega

/-- The two bytes of an opcode put it together again. -/
theorem wordOfBytes_slices (op : Word) : wordOfBytes (BitVec.ofNat 8 (slice op 15 8)) (BitVec.ofNat 8 (slice op 7 0)) = op := by
  have hop := op.isLt
  apply BitVec.eq_of_toNat_eq
  rw [toNat_wordOfBytes]
  simp only [slice, BitVec.toNat_ofNat]
  omega

/-- Settles O1: row by row on words (R93), and on bytes because the two bytes put the word together again (20_memory R67). -/
theorem encodeThenDecode : Obligations.EncodeThenDecode := by
  intro i rest
  refine ⟨decodeWord_encode i, ?_⟩
  simp only [bytesOfWord, List.cons_append, List.nil_append, decode, wordOfBytes_slices, decodeWord_encode]

/-! ## Encoding what was decoded -/

section Fields
variable (op : Word)

theorem wordNNN_fields : wordNNN (fieldInst op * 0x1000) (fieldNNN op) = op := by
  have hop := op.isLt
  apply BitVec.eq_of_toNat_eq
  simp only [wordNNN, fieldInst, fieldNNN, slice, BitVec.toNat_ofNat]
  omega

theorem wordXNN_fields : wordXNN (fieldInst op * 0x1000) (fieldX op) (slice op 7 0) = op := by
  have hop := op.isLt
  apply BitVec.eq_of_toNat_eq
  simp only [wordXNN, fieldInst, fieldX, slice, BitVec.toNat_ofNat, Fin.val_ofNat]
  omega

theorem wordXYN_fields : wordXYN (fieldInst op * 0x1000) (fieldX op) (fieldY op) (slice op 3 0) = op := by
  have hop := op.isLt
  apply BitVec.eq_of_toNat_eq
  simp only [wordXYN, fieldInst, fieldX, fieldY, slice, BitVec.toNat_ofNat, Fin.val_ofNat]
  omega

theorem toNat_fieldNN : (fieldNN op).toNat = slice op 7 0 :=
  Nat.mod_eq_of_lt (slice_lt op 7 0)

theorem val_fieldN : (fieldN op).val = slice op 3 0 := Nat.mod_eq_of_lt (slice_lt op 3 0)

end Fields

theorem encode_of_decodeFamily8 {op : Word} {i : Instr} (hfam : fieldInst op = 8) (h : decodeFamily8 op = some i) :
    encode i = op := by
  have hop := wordXYN_fields op
  unfold decodeFamily8 at h
  split at h <;> cases h <;> (rename_i hsel; rw [hfam, hsel] at hop; exact hop)

theorem encode_of_decodeFamilyE {op : Word} {i : Instr} (hfam : fieldInst op = 14) (h : decodeFamilyE op = some i) :
    encode i = op := by
  have hop := wordXNN_fields op
  unfold decodeFamilyE at h
  split at h <;> cases h <;> (rename_i hsel; rw [hfam, hsel] at hop; exact hop)

theorem encode_of_decodeFamilyF {op : Word} {i : Instr} (hfam : fieldInst op = 15) (h : decodeFamilyF op = some i) :
    encode i = op := by
  have hop := wordXNN_fields op
  unfold decodeFamilyF at h
  split at h <;> cases h <;> (rename_i hsel; rw [hfam, hsel] at hop; exact hop)

/-- R100: an opcode that decodes is the encoding of its instruction, by the sixteen families. -/
theorem encode_of_decodeWord {op : Word} {i : Instr} (h : decodeWord op = some i) : encode i = op := by
  have hnnn := wordNNN_fields op
  have hxnn := wordXNN_fields op
  rw [← toNat_fieldNN] at hxnn
  have hxyn := wordXYN_fields op
  unfold decodeWord at h
  split at h
  case h_1 => split_ifs at h <;> cases h <;> (symm; assumption)
  case h_2 | h_3 | h_11 | h_12 => -- families 1, 2, A, B, with the field nnn
    rename_i hfam
    cases h
    rwa [hfam] at hnnn
  case h_4 | h_5 | h_7 | h_8 | h_13 => -- families 3, 4, 6, 7, C, with the fields x and nn
    rename_i hfam
    cases h
    rwa [hfam] at hxnn
  case h_6 | h_10 => -- families 5 and 9, with the fields x and y
    rename_i hfam
    split_ifs at h with hn
    cases h
    rwa [hfam, hn] at hxyn
  case h_9 hfam => exact encode_of_decodeFamily8 hfam h
  case h_14 hfam =>
    cases h
    rwa [hfam, ← val_fieldN] at hxyn
  case h_15 hfam => exact encode_of_decodeFamilyE hfam h
  case h_16 hfam => exact encode_of_decodeFamilyF hfam h
  case h_17 => cases h

theorem shiftOperand_of_vx {s : State} (h : s.params.shiftSource = .vx) (x y : Reg) : s.shiftOperand x y = s.reg x := by
  simp only [State.shiftOperand, h]

/-- Settles O2: the fields of an opcode that decodes put it together again, and under SHIFT_SOURCE = Vx a shift reads V[x] alone
(R100). -/
theorem decodeThenEncode : Obligations.DecodeThenEncode := by
  refine ⟨fun _ _ h => encode_of_decodeWord h, fun x y z s h => ⟨?_, ?_⟩⟩
  · simp only [exec, execShr, shiftOperand_of_vx h]
  · simp only [exec, execShl, shiftOperand_of_vx h]

/-! ## The opcode map -/

theorem inRow (i : Instr) : Laws.InRow.Statement i := by
  cases i with
  | cls => exact Laws.InRow.cls
  | ret => exact Laws.InRow.ret
  | jp nnn => exact Laws.InRow.jp nnn
  | call nnn => exact Laws.InRow.call nnn
  | seImm x nn => exact Laws.InRow.seImm x nn
  | sneImm x nn => exact Laws.InRow.sneImm x nn
  | seReg x y => exact Laws.InRow.seReg x y
  | ldImm x nn => exact Laws.InRow.ldImm x nn
  | addImm x nn => exact Laws.InRow.addImm x nn
  | ldReg x y => exact Laws.InRow.ldReg x y
  | orReg x y => exact Laws.InRow.orReg x y
  | andReg x y => exact Laws.InRow.andReg x y
  | xorReg x y => exact Laws.InRow.xorReg x y
  | addReg x y => exact Laws.InRow.addReg x y
  | sub x y => exact Laws.InRow.sub x y
  | shr x y => exact Laws.InRow.shr x y
  | subn x y => exact Laws.InRow.subn x y
  | shl x y => exact Laws.InRow.shl x y
  | sneReg x y => exact Laws.InRow.sneReg x y
  | ldI nnn => exact Laws.InRow.ldI nnn
  | jpV0 nnn => exact Laws.InRow.jpV0 nnn
  | rnd x nn => exact Laws.InRow.rnd x nn
  | drw x y n => exact Laws.InRow.drw x y n
  | skp x => exact Laws.InRow.skp x
  | sknp x => exact Laws.InRow.sknp x
  | ldVxDt x => exact Laws.InRow.ldVxDt x
  | ldVxK x => exact Laws.InRow.ldVxK x
  | ldDtVx x => exact Laws.InRow.ldDtVx x
  | ldStVx x => exact Laws.InRow.ldStVx x
  | addI x => exact Laws.InRow.addI x
  | ldF x => exact Laws.InRow.ldF x
  | ldB x => exact Laws.InRow.ldB x
  | store x => exact Laws.InRow.store x
  | load x => exact Laws.InRow.load x

/-- An opcode that decodes matches the row of its instruction, which is a row of the map. -/
theorem row_of_decodeWord {op : Word} {i : Instr} (h : decodeWord op = some i) :
    i.row ∈ opcodeRows ∧ op &&& i.row.mask = i.row.bits := by
  obtain ⟨haccepts, hmem⟩ := inRow i
  rw [encode_of_decodeWord h] at haccepts
  exact ⟨hmem, eq_of_beq haccepts⟩

/-- What the mask 0xF000 leaves of an opcode says its family. -/
theorem fieldInst_of_and_F000 {op bits : Word} (h : op &&& 0xF000#16 = bits) : fieldInst op = bits.toNat / 4096 := by
  rw [fieldInst_eq_div, ← h, toNat_and_F000]
  omega

/-- What the mask 0xF00F leaves says the family and the selector n. -/
theorem selectors_of_and_F00F {op bits : Word} (h : op &&& 0xF00F#16 = bits) :
    fieldInst op = bits.toNat / 4096 ∧ slice op 3 0 = bits.toNat % 16 := by
  rw [fieldInst_eq_div, slice_low_nibble, ← h, toNat_and_F00F]
  omega

/-- What the mask 0xF0FF leaves says the family and the selector nn. -/
theorem selectors_of_and_F0FF {op bits : Word} (h : op &&& 0xF0FF#16 = bits) :
    fieldInst op = bits.toNat / 4096 ∧ slice op 7 0 = bits.toNat % 256 := by
  rw [fieldInst_eq_div, slice_low_byte, ← h, toNat_and_F0FF]
  omega

/-- An opcode that matches the row of some instruction decodes, by the mask of the row (R93). -/
theorem decodeWord_ne_none_of_row (i : Instr) {op : Word} (h : op &&& i.row.mask = i.row.bits) : decodeWord op ≠ none := by
  cases i with
  | cls | ret =>
    obtain rfl : op = _ := (BitVec.and_allOnes (x := op)).symm.trans h
    decide
  | jp | call | seImm | sneImm | ldImm | addImm | ldI | jpV0 | rnd | drw =>
    have hfam := fieldInst_of_and_F000 h
    simp [decodeWord, hfam, Instr.row]
  | seReg | sneReg | ldReg | orReg | andReg | xorReg | addReg | sub | shr | subn | shl =>
    obtain ⟨hfam, hn⟩ := selectors_of_and_F00F h
    simp [decodeWord, decodeFamily8, hfam, hn, Instr.row]
  | skp | sknp | ldVxDt | ldVxK | ldDtVx | ldStVx | addI | ldF | ldB | store | load =>
    obtain ⟨hfam, hnn⟩ := selectors_of_and_F0FF h
    simp [decodeWord, decodeFamilyE, decodeFamilyF, hfam, hnn, Instr.row]

/-- Every row of the table is the row of an instruction. -/
theorem exists_row_eq {r : OpcodeRow} (h : r ∈ opcodeRows) : ∃ i : Instr, i.row = r := by
  rw [opcodeRows, ← List.map_append] at h
  obtain ⟨i, -, hi⟩ := List.mem_map.1 h
  exact ⟨i, hi⟩

/-- Settles O3: an opcode that decodes matches the row of its instruction, and one that matches a row decodes (R93, R94). -/
theorem decoderFollowsOpcodeMap : Obligations.DecoderFollowsOpcodeMap := by
  intro op
  refine ⟨fun i h => row_of_decodeWord h, fun hnone r hr hmatch => ?_, fun hno => ?_⟩
  · obtain ⟨i, rfl⟩ := exists_row_eq hr
    exact decodeWord_ne_none_of_row i hmatch hnone
  · refine Option.eq_none_iff_forall_ne_some.2 fun i hi => ?_
    obtain ⟨hmem, hmatch⟩ := row_of_decodeWord hi
    exact hno _ hmem hmatch

/-- Two rows that differ in a bit both masks fix accept no opcode together. -/
theorem not_both_accept {r q : OpcodeRow} (h : (r.bits ^^^ q.bits) &&& r.mask &&& q.mask ≠ 0) (op : Word) :
    ¬ (r.accepts op = true ∧ q.accepts op = true) := by
  rintro ⟨hr, hq⟩
  apply h
  rw [← eq_of_beq hr, ← eq_of_beq hq]
  refine BitVec.eq_of_getLsbD_eq fun k _ => ?_
  simp only [BitVec.getLsbD_and, BitVec.getLsbD_xor, BitVec.ofNat_eq_ofNat, BitVec.getLsbD_zero]
  cases op.getLsbD k <;> cases r.mask.getLsbD k <;> cases q.mask.getLsbD k <;> rfl

theorem opcodeRows_differ : opcodeRows.Pairwise fun r q => (r.bits ^^^ q.bits) &&& r.mask &&& q.mask ≠ 0 := by decide

/-- Settles O4: the differing bit of each pair of rows is found by evaluation, and one such bit keeps an opcode from both (R94). -/
theorem rowsAreDisjoint : Obligations.RowsAreDisjoint :=
  ⟨rfl, opcodeRows_differ.imp fun h => ⟨h, not_both_accept h⟩⟩

/-! ## Counting the unknown opcodes -/

/-- Over `m` periods a periodic predicate holds `m` times as often as over one. -/
theorem length_filter_range_of_periodic {p : Nat → Bool} {a : Nat} (hp : Function.Periodic p a) (m : Nat) :
    ((List.range (m * a)).filter p).length = m * ((List.range a).filter p).length := by
  induction m with
  | zero => simp
  | succ m ih =>
    have hshift : p ∘ (m * a + ·) = p := funext fun k => by
      rw [Function.comp_apply, Nat.add_comm]
      exact hp.nat_mul m k
    rw [Nat.succ_mul, List.range_add, List.filter_append, List.length_append, ih, List.filter_map, List.length_map, hshift,
      Nat.succ_mul]

/-- Below `a`, all numbers but those of a list are outside the list. -/
theorem length_filter_not_elem {a : Nat} {l : List Nat} (hnd : l.Nodup) (hlt : ∀ k ∈ l, k < a) :
    ((List.range a).filter fun k => !l.elem k).length = a - l.length := by
  have hperm : ((List.range a).filter fun k => l.elem k).Perm l := by
    refine (List.perm_ext_iff_of_nodup (List.nodup_range.filter _) hnd).2 fun k => ?_
    simpa using hlt k
  have hsum := List.length_eq_length_filter_add (l := List.range a) (fun k => l.elem k)
  rw [hperm.length_eq, List.length_range] at hsum
  omega

/-- How many opcodes of family `f` do not decode. -/
def unknownIn (f : Nat) : Nat :=
  ((List.range 4096).filter fun k => (decodeWord (BitVec.ofNat 16 (f * 4096 + k))).isNone).length

/-- The unknown opcodes of a family whose opcodes are checked, modulo `a`, against the list `l` (R95, R96). -/
theorem unknownIn_eq {f : Nat} (hf : f < 16) (a m : Nat) (l : List Nat) (ham : m * a = 4096) (hnd : l.Nodup)
    (hlt : ∀ k ∈ l, k < a) (hok : ∀ op : Word, op.toNat / 4096 = f → wellFormedWord op = l.elem (op.toNat % a)) :
    unknownIn f = m * (a - l.length) := by
  have hperiod : Function.Periodic (fun k => !l.elem (k % a)) a := fun k => by simp only [Nat.add_mod_right]
  have hcount : ((List.range a).filter fun k => !l.elem (k % a)).length = a - l.length := by
    rw [← length_filter_not_elem hnd hlt]
    exact congrArg List.length (List.filter_congr fun k hk => by rw [Nat.mod_eq_of_lt (List.mem_range.1 hk)])
  rw [← hcount, ← length_filter_range_of_periodic hperiod, ham]
  refine congrArg List.length (List.filter_congr fun k hk => ?_)
  have hk : k < 4096 := List.mem_range.1 hk
  have htoNat : (BitVec.ofNat 16 (f * 4096 + k)).toNat = f * 4096 + k := by
    rw [BitVec.toNat_ofNat]
    exact Nat.mod_eq_of_lt (by omega)
  have hmod : (f * 4096 + k) % a = k % a := by rw [← ham, ← Nat.mul_assoc, Nat.add_comm, Nat.add_mul_mod_self_right]
  rw [← Option.not_isSome, decoderFollowsFamilies, hok _ (by omega), htoNat, hmod]

/-- Family 0 is checked on its low 12 bits, which are the whole opcode. -/
theorem wellFormedWord_family0 {op : Word} (h : op.toNat / 4096 = 0) :
    wellFormedWord op = [0x0E0, 0x0EE].elem (op.toNat % 4096) := by
  have hlow : op.toNat % 4096 = op.toNat := by omega
  simp only [wellFormedWord, h, wellFormedFamily0, hlow]
  rw [Bool.eq_iff_iff]
  simp [BitVec.toNat_eq]

theorem wellFormedFamily5or9_eq_elem (op : Word) : wellFormedFamily5or9 op = [0].elem (op.toNat % 16) := by
  rw [wellFormedFamily5or9, List.elem_cons]
  cases op.toNat % 16 == 0 <;> rfl

/-- In families 5 and 9 one low nibble in sixteen is an instruction. -/
theorem unknownIn_family5or9 {f : Nat} (hf : f = 5 ∨ f = 9) : unknownIn f = 256 * (16 - 1) := by
  refine unknownIn_eq (by omega) 16 256 [0] rfl (by decide) (by decide) fun op h => ?_
  rcases hf with rfl | rfl <;> simp only [wellFormedWord, h, wellFormedFamily5or9_eq_elem]

/-- In a family without a secondary field every opcode is an instruction. -/
theorem unknownIn_eq_zero {f : Nat} (hf : f < 16) (h : ∀ op : Word, op.toNat / 4096 = f → wellFormedWord op = true) :
    unknownIn f = 0 :=
  unknownIn_eq hf 1 4096 [0] rfl (by decide) (by decide) fun op hop => by rw [h op hop, Nat.mod_one]; rfl

/-- Settles O6: the check of each family reads the low nibble, the low byte or, in family 0, the low 12 bits, so the count is that of
one period times the number of periods (R95, R96). -/
theorem unknownOpcodeCount : Obligations.UnknownOpcodeCount := by
  refine ⟨fun ⟨f, hf⟩ => ?_, rfl⟩
  change unknownIn f = _
  interval_cases f
  · exact unknownIn_eq hf 4096 1 [0x0E0, 0x0EE] rfl (by decide) (by decide) fun _ => wellFormedWord_family0
  iterate 4 · exact unknownIn_eq_zero hf fun op h => by simp only [wellFormedWord, h] -- families 1 to 4
  · exact unknownIn_family5or9 (.inl rfl)
  iterate 2 · exact unknownIn_eq_zero hf fun op h => by simp only [wellFormedWord, h] -- families 6 and 7
  · exact unknownIn_eq hf 16 256 [0x0, 0x1, 0x2, 0x3, 0x4, 0x5, 0x6, 0x7, 0xE] rfl (by decide) (by decide) fun op h => by
      simp only [wellFormedWord, h, wellFormedFamily8]
  · exact unknownIn_family5or9 (.inr rfl)
  iterate 4 · exact unknownIn_eq_zero hf fun op h => by simp only [wellFormedWord, h] -- families A to D
  · exact unknownIn_eq hf 256 16 [0x9E, 0xA1] rfl (by decide) (by decide) fun op h => by
      simp only [wellFormedWord, h, wellFormedFamilyE]
  · exact unknownIn_eq hf 256 16 [0x07, 0x0A, 0x15, 0x18, 0x1E, 0x29, 0x33, 0x55, 0x65] rfl (by decide) (by decide) fun op h => by
      simp only [wellFormedWord, h, wellFormedFamilyF]

/-- Settles O7: by evaluating the decoder on the written-out words. -/
theorem sampleOpcodesDecode : Obligations.SampleOpcodesDecode := by
  unfold Obligations.SampleOpcodesDecode
  decide

end Sys2Proof
end

section
/-! What an instruction can do, said once: `Effect i s` lists the next states that the rule of `i` answers from `s`, with what the
claims about all instructions need of each. Every instruction answers one of them; the rules about who writes what, about faults and
about the invariant are read off the list (10_state R20 to R38; 60_exceptions R240 to R251). -/

namespace Sys2Proof.Machine

/-! ## The effects -/

/-- The next states that the rule of `i` can answer from `s`. -/
inductive Effect (i : Instr) (s : State) : State → Prop
  /-- a fault, and nothing else written (60_exceptions R246, R247) -/
  | fault (code : FaultCode) (info : FaultInfo)
      (hcons : FaultRecord.consistent ⟨code, s.instrAddr, some (encode i), info⟩) :
      Effect i s (takeFault ⟨code, s.instrAddr, some (encode i), info⟩ s)
  /-- registers alone, of those the instruction may write (10_state R21) -/
  | regs (v' : Vector Byte 16) (hreg : ∀ r : Reg, v'[r.val] ≠ s.reg r → MayWriteReg i r) : Effect i s { s with v := v' }
  /-- a register and the count of draws (41_alu R162) -/
  | draw (x : Reg) (nn b : Byte) (hi : i = .rnd x nn) : Effect i s ((s.setReg x b).countDraw)
  /-- a sprite and its collision flag (43_display R202) -/
  | sprite (x y : Reg) (n : RowCount) (fb : Framebuffer) (b : Byte) (hi : i = .drw x y n) : Effect i s ((s.setFb fb).setReg vF b)
  /-- the framebuffer cleared (43_display R201) -/
  | clear (fb : Framebuffer) (hi : i = .cls) : Effect i s (s.setFb fb)
  /-- PC alone: at most one instruction further, or at most the highest target of a jump (10_state R26) -/
  | pc (w : Word) (hi : MayWritePc i = true) (hw : w.toNat ≤ max 0x10FE (s.pc.toNat + 2)) : Effect i s (s.setPc w)
  /-- a call below the capacity (40_control_flow R125) -/
  | call (nnn : Addr12) (hi : i = .call nnn) (hroom : s.stackFull = false) : Effect i s ((s.push s.pc).setPc (zextAddr nnn))
  /-- a return to the last entry (40_control_flow R123) -/
  | ret (below : List Word) (a : Word) (hi : i = .ret) (hstack : s.stack = below ++ [a]) : Effect i s ((s.setStack below).setPc a)
  /-- the index register (10_state R24) -/
  | index (w : Word) (hi : MayWriteI i = true) : Effect i s (s.setI w)
  /-- the delay timer (44_input_timers R224) -/
  | delay (x : Reg) (hi : i = .ldDtVx x) : Effect i s (s.setDt (s.reg x))
  /-- the sound timer (44_input_timers R225) -/
  | sound (x : Reg) (hi : i = .ldStVx x) : Effect i s (s.setSt (s.reg x))
  /-- a block of bytes within memory (20_memory R66) -/
  | mem (bs : List Byte) (hi : MayWriteMem i = true) (hfits : s.base + bs.length ≤ 0x1000) :
      Effect i s (s.setMem (s.mem.putBlock s.base bs))

section
variable {i : Instr} {s : State}

/-- The rule of `i` answers a next state from `s`, and it is one of the list. -/
def Answers (i : Instr) (s : State) : Prop := ∃ t, exec i s = .next t ∧ Effect i s t

/-! ## The shapes that several instructions share -/

theorem answers_of_setReg {x : Reg} {b : Byte} (h : exec i s = .next (s.setReg x b)) (hx : MayWriteReg i x) : Answers i s := by
  refine ⟨_, h, .regs _ fun r hr => ?_⟩
  by_cases hrx : r = x
  · rwa [hrx]
  · exact absurd ((reg_setReg s x r b).trans (if_neg hrx)) hr

theorem answers_of_writeResultAndFlag {x : Reg} {b : Byte} {f : Bool} (h : exec i s = .next (s.writeResultAndFlag x b f))
    (hx : ∀ r, r = x ∨ r = vF → MayWriteReg i r) : Answers i s := by
  rw [writeResultAndFlag_eq] at h
  refine ⟨_, h, .regs _ fun r hr => hx r ?_⟩
  by_contra hne
  rw [not_or] at hne
  exact hr ((reg_writeResultAndFlag s x r b f).trans ((if_neg hne.2).trans (if_neg hne.1)))

theorem toNat_skip_le (w : Word) : (w + 2).toNat ≤ max 0x10FE (w.toNat + 2) := by
  rw [BitVec.toNat_add]
  exact (Nat.mod_le _ _).trans (Nat.le_max_right _ _)

theorem answers_of_setPc {w : Word} (h : exec i s = .next (s.setPc w)) (hi : MayWritePc i = true)
    (hw : w.toNat ≤ max 0x10FE (s.pc.toNat + 2)) : Answers i s :=
  ⟨_, h, .pc w hi hw⟩

theorem answers_of_skipIf {c : Bool} (h : exec i s = .next (s.skipIf c)) (hi : MayWritePc i = true) : Answers i s := by
  cases c with
  | false => exact answers_of_setPc (w := s.pc) h hi ((Nat.le_add_right _ 2).trans (Nat.le_max_right _ _))
  | true => exact answers_of_setPc h hi (toNat_skip_le s.pc)

theorem answers_of_raiseFault {code : FaultCode} {info : FaultInfo} (h : exec i s = raiseFault i code info s)
    (hcons : FaultRecord.consistent ⟨code, s.instrAddr, some (encode i), info⟩) : Answers i s :=
  ⟨_, h, .fault code info hcons⟩

/-- The record of an access out of bounds, for an instruction that reaches memory (60_exceptions R243). -/
theorem answers_of_memoryFault {a : Nat} (h : exec i s = raiseFault i .memoryOutOfBounds (.address (max a 0x1000)) s)
    (hi : reachesMemory (encode i) = true) : Answers i s :=
  answers_of_raiseFault h ⟨hi, Nat.lt_of_lt_of_le (by decide) (Nat.le_max_right _ _)⟩

end

/-! ## Every instruction has one of these effects -/

section
variable (s : State)

theorem answers_ret : Answers .ret s := by
  rcases List.eq_nil_or_concat' s.stack with h | ⟨below, a, h⟩
  · exact answers_of_raiseFault (exec_ret_of_stack_nil h) rfl
  · exact ⟨_, exec_ret_of_stack_concat h, .ret below a rfl h⟩

theorem isCall_encode (nnn : Addr12) : isCall (encode (.call nnn)) = true := by
  simp only [isCall, decodeWord_encode]

theorem exec_call_of_full {s : State} (nnn : Addr12) (h : s.stackFull = true) :
    exec (.call nnn) s = raiseFault (.call nnn) .stackOverflow .nothing s := if_pos h

theorem exec_call_of_room {s : State} (nnn : Addr12) (h : s.stackFull = false) :
    exec (.call nnn) s = .next ((s.push s.pc).setPc (zextAddr nnn)) := if_neg (by rw [h]; decide)

theorem answers_call (nnn : Addr12) : Answers (.call nnn) s := by
  cases h : s.stackFull with
  | true => exact answers_of_raiseFault (exec_call_of_full nnn h) (isCall_encode nnn)
  | false => exact ⟨_, exec_call_of_room nnn h, .call nnn rfl h⟩

theorem toNat_zextAddr (nnn : Addr12) : (zextAddr nnn).toNat = nnn.toNat := by
  rw [zextAddr, BitVec.toNat_setWidth]
  omega

theorem toNat_zextByte (b : Byte) : (zextByte b).toNat = b.toNat := by
  rw [zextByte, BitVec.toNat_setWidth]
  omega

/-- R131: the sum is at most 0x10FE, so it is not reduced. -/
theorem toNat_zextAddr_add_zextByte (nnn : Addr12) (b : Byte) : (zextAddr nnn + zextByte b).toNat = nnn.toNat + b.toNat := by
  rw [BitVec.toNat_add, toNat_zextAddr, toNat_zextByte]
  omega

theorem exec_skp_of_above {s : State} {x : Reg} (h : 15 < (s.reg x).toNat) :
    exec (.skp x) s = raiseFault (.skp x) .keyIndexOutOfRange (.key (s.reg x)) s := if_pos h

theorem exec_skp_of_le {s : State} {x : Reg} (h : (s.reg x).toNat ≤ 15) :
    exec (.skp x) s = .next (s.skipIf (keyDown s.keys (s.reg x).toNat)) := if_neg (Nat.not_lt.mpr h)

theorem exec_sknp_of_above {s : State} {x : Reg} (h : 15 < (s.reg x).toNat) :
    exec (.sknp x) s = raiseFault (.sknp x) .keyIndexOutOfRange (.key (s.reg x)) s := if_pos h

theorem exec_sknp_of_le {s : State} {x : Reg} (h : (s.reg x).toNat ≤ 15) :
    exec (.sknp x) s = .next (s.skipIf (!keyDown s.keys (s.reg x).toNat)) := if_neg (Nat.not_lt.mpr h)

theorem answers_skp (x : Reg) : Answers (.skp x) s := by
  rcases Nat.lt_or_ge 15 (s.reg x).toNat with h | h
  · exact answers_of_raiseFault (exec_skp_of_above h) ⟨by simp only [takesKeyIndex, decodeWord_encode], h⟩
  · exact answers_of_skipIf (exec_skp_of_le h) rfl

theorem answers_sknp (x : Reg) : Answers (.sknp x) s := by
  rcases Nat.lt_or_ge 15 (s.reg x).toNat with h | h
  · exact answers_of_raiseFault (exec_sknp_of_above h) ⟨by simp only [takesKeyIndex, decodeWord_encode], h⟩
  · exact answers_of_skipIf (exec_sknp_of_le h) rfl

theorem exec_ldVxK_of_some {s : State} {k : Nat} (x : Reg) (h : firstKeyDown s.keys = some k) :
    exec (.ldVxK x) s = .next (s.setReg x (BitVec.ofNat 8 k)) := by
  simp only [exec, execLdVxK, h]

theorem exec_ldVxK_of_none {s : State} (x : Reg) (h : firstKeyDown s.keys = none) :
    exec (.ldVxK x) s = .next (s.setPc (BitVec.ofNat 16 (s.pc.toNat - 2))) := by
  simp only [exec, execLdVxK, h]

theorem answers_ldVxK (x : Reg) : Answers (.ldVxK x) s := by
  cases h : firstKeyDown s.keys with
  | some k => exact answers_of_setReg (exec_ldVxK_of_some x h) rfl
  | none =>
    refine answers_of_setPc (exec_ldVxK_of_none x h) rfl ?_
    rw [BitVec.toNat_ofNat]
    omega

theorem exec_ldB_of_fits {s : State} (x : Reg) (h : s.base + 2 ≤ 0xFFF) :
    exec (.ldB x) s = .next (s.setMem (s.mem.putBlock s.base (bcdDigits (s.reg x)))) := (execLdB_eq x s).trans (if_pos h)

theorem exec_ldB_of_exceeds {s : State} (x : Reg) (h : ¬ s.base + 2 ≤ 0xFFF) :
    exec (.ldB x) s = raiseFault (.ldB x) .memoryOutOfBounds (.address (max s.base 0x1000)) s := (execLdB_eq x s).trans (if_neg h)

theorem exec_store_of_fits {s : State} {x : Reg} (h : s.base + x.val ≤ 0xFFF) :
    exec (.store x) s = .next (s.setMem (s.mem.putBlock s.base (s.lowRegs x))) := (execStore_eq x s).trans (if_pos h)

theorem exec_store_of_exceeds {s : State} {x : Reg} (h : ¬ s.base + x.val ≤ 0xFFF) :
    exec (.store x) s = raiseFault (.store x) .memoryOutOfBounds (.address (max s.base 0x1000)) s :=
  (execStore_eq x s).trans (if_neg h)

theorem exec_load_of_fits {s : State} {x : Reg} (h : s.base + x.val ≤ 0xFFF) :
    exec (.load x) s = .next (s.setLowRegs ((List.range (x.val + 1)).map fun k => s.mem.read (s.base + k))) :=
  (execLoad_eq x s).trans (if_pos h)

theorem exec_load_of_exceeds {s : State} {x : Reg} (h : ¬ s.base + x.val ≤ 0xFFF) :
    exec (.load x) s = raiseFault (.load x) .memoryOutOfBounds (.address (max s.base 0x1000)) s :=
  (execLoad_eq x s).trans (if_neg h)

/-- The `n` bytes at I, the rows of a sprite. -/
def State.spriteRows (s : State) (n : Nat) : List Byte := (List.range n).map fun k => s.mem.read (s.base + k)

theorem exec_drw_of_fits {s : State} (x y : Reg) {n : RowCount} (h : n.val = 0 ∨ s.base + n.val ≤ 0x1000) :
    exec (.drw x y n) s =
      .next ((s.setFb (drawSprite s.fb (s.originX x) (s.originY y) (s.spriteRows n.val)).1).setReg vF
        (flagByte (drawSprite s.fb (s.originX x) (s.originY y) (s.spriteRows n.val)).2)) :=
  (execDrw_eq x y n s).trans (if_pos h)

theorem exec_drw_of_exceeds {s : State} (x y : Reg) {n : RowCount} (h : ¬ (n.val = 0 ∨ s.base + n.val ≤ 0x1000)) :
    exec (.drw x y n) s = raiseFault (.drw x y n) .memoryOutOfBounds (.address (max s.base 0x1000)) s :=
  (execDrw_eq x y n s).trans (if_neg h)

theorem answers_ldB (x : Reg) : Answers (.ldB x) s := by
  by_cases h : s.base + 2 ≤ 0xFFF
  · exact ⟨_, exec_ldB_of_fits x h, .mem _ rfl (by rw [length_bcdDigits]; omega)⟩
  · exact answers_of_memoryFault (exec_ldB_of_exceeds x h) (by simp only [reachesMemory, decodeWord_encode])

theorem answers_store (x : Reg) : Answers (.store x) s := by
  by_cases h : s.base + x.val ≤ 0xFFF
  · exact ⟨_, exec_store_of_fits h, .mem _ rfl (by rw [length_lowRegs]; omega)⟩
  · exact answers_of_memoryFault (exec_store_of_exceeds h) (by simp only [reachesMemory, decodeWord_encode])

theorem answers_load (x : Reg) : Answers (.load x) s := by
  by_cases h : s.base + x.val ≤ 0xFFF
  · refine ⟨_, exec_load_of_fits h, .regs _ fun r hr => ?_⟩
    by_contra hgt
    have hrx : x.val + 1 ≤ r.val := Nat.lt_of_not_le hgt
    refine hr ((reg_setLowRegs s _ r).trans (List.getD_eq_default _ _ ?_))
    rwa [List.length_map, List.length_range]
  · exact answers_of_memoryFault (exec_load_of_exceeds h) (by simp only [reachesMemory, decodeWord_encode])

theorem answers_drw (x y : Reg) (n : RowCount) : Answers (.drw x y n) s := by
  by_cases h : n.val = 0 ∨ s.base + n.val ≤ 0x1000
  · exact ⟨_, exec_drw_of_fits x y h, .sprite x y n _ _ rfl⟩
  · exact answers_of_memoryFault (exec_drw_of_exceeds x y h) (by simp only [reachesMemory, decodeWord_encode])

/-- Every instruction completes from every state, with one of the effects. -/
theorem exec_answers (i : Instr) : Answers i s := by
  cases i with
  | cls => exact ⟨_, exec_cls s, .clear _ rfl⟩
  | ret => exact answers_ret s
  | call nnn => exact answers_call s nnn
  | jp nnn => exact answers_of_setPc (w := zextAddr nnn) rfl rfl (by rw [toNat_zextAddr]; omega)
  | jpV0 nnn => exact answers_of_setPc rfl rfl (by rw [toNat_zextAddr_add_zextByte]; omega)
  | seImm | sneImm | seReg | sneReg => exact answers_of_skipIf rfl rfl
  | ldImm | addImm | ldReg | orReg | andReg | xorReg | ldVxDt => exact answers_of_setReg rfl rfl
  | addReg | sub | shr | subn | shl => exact answers_of_writeResultAndFlag rfl fun _ h => h
  | ldI | addI | ldF => exact ⟨_, rfl, .index _ rfl⟩
  | rnd x nn => exact ⟨_, rfl, .draw x nn _ rfl⟩
  | drw x y n => exact answers_drw s x y n
  | skp x => exact answers_skp s x
  | sknp x => exact answers_sknp s x
  | ldVxK x => exact answers_ldVxK s x
  | ldDtVx x => exact ⟨_, exec_ldDtVx x s, .delay x rfl⟩
  | ldStVx x => exact ⟨_, exec_ldStVx x s, .sound x rfl⟩
  | ldB x => exact answers_ldB s x
  | store x => exact answers_store s x
  | load x => exact answers_load s x

end

theorem effect_of_exec {i : Instr} {s t : State} (h : exec i s = .next t) : Effect i s t := by
  obtain ⟨u, hu, heffect⟩ := exec_answers s i
  obtain rfl : u = t := Host.Outcome.next.inj (hu.symm.trans h)
  exact heffect

end Sys2Proof.Machine
end

section
/-! The statements about every instruction and every step, read off the list of effects: who writes what, which faults a step takes and
what it then leaves (10_state R20 to R38; 60_exceptions R246 to R251). -/

namespace Sys2Proof.Machine

/-! ## Who writes what -/

/-- Settles O43: of the effects that write registers, each writes those that R21 lists for its instruction. -/
theorem onlyListedRegistersChange : Obligations.OnlyListedRegistersChange := by
  refine ⟨fun i s t r h hne => ?_, fun op s r => reg_execUnknown s op r⟩
  cases effect_of_exec h with
  | regs v' hreg => exact hreg r hne
  | draw x nn b hi =>
    subst hi
    by_contra hrx
    exact hne ((reg_setReg s x r b).trans (if_neg hrx))
  | sprite x y n fb b hi =>
    subst hi
    by_contra hrx
    exact hne ((reg_setReg _ vF r b).trans (if_neg hrx))
  | _ => exact absurd rfl hne

theorem mayWritePc_call (nnn : Addr12) : MayWritePc (.call nnn) = true := rfl

theorem mayWritePc_ret : MayWritePc .ret = true := rfl

/-- Settles O44: each effect writes its own fields, and says which instructions have it. -/
theorem onlyNamedInstructionsWrite : Obligations.OnlyNamedInstructionsWrite := by
  intro i s t h
  cases effect_of_exec h with
  | fault | regs => simp
  | pc _ hi | index _ hi | mem _ hi => simp [hi]
  | call _ hi => simp [hi, mayWritePc_call]
  | ret _ _ hi => simp [hi, mayWritePc_ret]
  | draw _ _ _ hi | sprite _ _ _ _ _ hi | clear _ hi | delay _ hi | sound _ hi => simp [hi]

/-- No instruction changes the event log or the parameters. -/
theorem exec_keeps {i : Instr} {s t : State} (h : exec i s = .next t) : t.events = s.events ∧ t.params = s.params := by
  obtain ⟨-, -, -, -, -, -, -, -, -, hevents, hparams⟩ := onlyNamedInstructionsWrite i s t h
  exact ⟨hevents, hparams⟩

/-! ## Steps -/

theorem step_of_decodes {s : State} {op : Word} {i : Instr} (hf : s.fault = none) (hfetch : fetch s = .ok op)
    (hdec : decodeWord op = some i) : step s = exec i s.advancePc := by
  unfold step
  simp only [hf, hfetch, hdec]

theorem step_of_unknown {s : State} {op : Word} (hf : s.fault = none) (hfetch : fetch s = .ok op) (hdec : decodeWord op = none) :
    step s = .next (execUnknown op s.advancePc) := by
  unfold step
  simp only [hf, hfetch, hdec]

theorem step_of_fetch_error {s : State} {r : FaultRecord} (hf : s.fault = none) (hfetch : fetch s = .error r) :
    step s = .next (takeFault r s) := by
  unfold step
  simp only [hf, hfetch]

theorem step_of_halted {s : State} {r : FaultRecord} (hf : s.fault = some r) : step s = .fault (.halted r) := by
  unfold step
  simp only [hf]

/-- Settles O12: every instruction answers one of its effects, and a step on a running core is a fetch fault, an instruction or an event
(R120, R122). -/
theorem everyStepCompletes : Obligations.EveryStepCompletes := by
  have hexec : ∀ (i : Instr) (s : State), ∃ t, exec i s = .next t := fun i s => (exec_answers s i).imp fun _ h => h.1
  refine ⟨hexec, fun s hf => ?_⟩
  cases hfetch : fetch s with
  | error r => exact ⟨_, step_of_fetch_error hf hfetch⟩
  | ok op =>
    cases hdec : decodeWord op with
    | none => exact ⟨_, step_of_unknown hf hfetch hdec⟩
    | some i =>
      rw [step_of_decodes hf hfetch hdec]
      exact hexec i _

/-- Settles O8: the bytes put together as arithmetic, and the word that a successful fetch answers (R67). -/
theorem fetchIsBigEndian : Obligations.FetchIsBigEndian := by
  refine ⟨toNat_wordOfBytes, fun s op h => ?_⟩
  obtain ⟨-, -, hop⟩ := (fetch_ok_iff s op).1 h
  exact hop

/-! ### The three outcomes of the fetch -/

theorem not_misaligned {s : State} (h : s.pc.toNat % 2 = 0 ∨ s.params.oddPcPolicy = .fetch) :
    ¬ (s.pc.toNat % 2 = 1 ∧ s.params.oddPcPolicy = .fault) := by
  rintro ⟨hodd, hpolicy⟩
  rw [hpolicy] at h
  rcases h with h | h
  · omega
  · cases h

theorem fetch_of_misaligned {s : State} (hodd : s.pc.toNat % 2 = 1) (hpolicy : s.params.oddPcPolicy = .fault) :
    fetch s = .error ⟨.pcMisaligned, s.pc, none, .nothing⟩ := if_pos ⟨hodd, hpolicy⟩

theorem fetch_of_outside {s : State} (h : s.pc.toNat % 2 = 0 ∨ s.params.oddPcPolicy = .fetch) (hout : 0xFFF < s.pc.toNat + 1) :
    fetch s = .error ⟨.memoryOutOfBounds, s.pc, none, .address (max s.pc.toNat 0x1000)⟩ :=
  (if_neg (not_misaligned h)).trans (if_pos hout)

theorem fetch_of_inside {s : State} (h : s.pc.toNat % 2 = 0 ∨ s.params.oddPcPolicy = .fetch) (hin : s.pc.toNat + 1 ≤ 0xFFF) :
    fetch s = .ok s.opcodeAtPc := (fetch_ok_iff s _).2 ⟨not_misaligned h, hin, rfl⟩

theorem decode_of_some {hi lo : Byte} {i : Instr} (rest : List Byte) (h : decodeWord (wordOfBytes hi lo) = some i) :
    decode (hi :: lo :: rest) = .ok (i, rest) := by
  simp only [decode, h]

theorem decode_of_none {hi lo : Byte} (rest : List Byte) (h : decodeWord (wordOfBytes hi lo) = none) :
    decode (hi :: lo :: rest) = .error (.unknownOpcode (wordOfBytes hi lo)) := by
  simp only [decode, h]

/-- What the decoder answers on two bytes says what it answers on their opcode. -/
theorem decodeWord_of_decode_ok {hi lo : Byte} {i : Instr} (h : decode [hi, lo] = .ok (i, [])) :
    decodeWord (wordOfBytes hi lo) = some i := by
  cases hdec : decodeWord (wordOfBytes hi lo) with
  | none => cases (decode_of_none [] hdec).symm.trans h
  | some j => cases (decode_of_some [] hdec).symm.trans h; rfl

theorem decodeWord_of_decode_error {hi lo : Byte} {op : Word} (h : decode [hi, lo] = .error (.unknownOpcode op)) :
    op = wordOfBytes hi lo ∧ decodeWord op = none := by
  cases hdec : decodeWord (wordOfBytes hi lo) with
  | none => cases (decode_of_none [] hdec).symm.trans h; exact ⟨rfl, hdec⟩
  | some j => cases (decode_of_some [] hdec).symm.trans h

/-- Settles O9: the two checks of the fetch in order, and otherwise the decoder decides (R120, R121, R122). -/
theorem stepFetchesDecodesExecutes : Obligations.StepFetchesDecodesExecutes := by
  intro s hf
  refine ⟨fun hodd hpolicy => ?_, fun h hout => ?_, fun h hin => ⟨fun i hdec => ?_, fun op hdec => ?_⟩⟩
  · exact step_of_fetch_error hf (fetch_of_misaligned hodd hpolicy)
  · exact step_of_fetch_error hf (fetch_of_outside h hout)
  · exact step_of_decodes hf (fetch_of_inside h hin) (decodeWord_of_decode_ok hdec)
  · obtain ⟨rfl, hnone⟩ := decodeWord_of_decode_error hdec
    rw [step_of_unknown hf (fetch_of_inside h hin) hnone, execUnknown, instrAddr_advancePc]
    rfl

/-! ### The host's step -/

theorem hostStep_of_step {s t : State} (h : step s = .next t) : hostStep s = t := by
  unfold hostStep
  simp only [h]

theorem hostStep_of_halted {s : State} {r : FaultRecord} (hf : s.fault = some r) : hostStep s = s := by
  unfold hostStep
  simp only [step_of_halted hf]

/-- The host's step changes nothing or is a step. -/
theorem hostStep_cases (s : State) : hostStep s = s ∨ step s = .next (hostStep s) := by
  cases hf : s.fault with
  | some r => exact .inl (hostStep_of_halted hf)
  | none =>
    obtain ⟨t, ht⟩ := everyStepCompletes.2 s hf
    rw [hostStep_of_step ht]
    exact .inr ht

/-- Settles O11: both of the host's answers follow what `step` answers (R248, R263). -/
theorem haltedCoreHasNoStep : Obligations.HaltedCoreHasNoStep := by
  refine ⟨fun s r hf => ⟨step_of_halted hf, hostStep_of_halted hf, ?_⟩, fun s t hf h => ⟨hostStep_of_step h, ?_⟩⟩
  · simp only [hostStepReply, hf]
  · simp only [hostStepReply, hf, hostStep_of_step h]

/-! ## Faults and events -/

/-- An instruction takes a fault, which names it and its address and changes nothing else, or leaves the fault status alone
(R246, R247). -/
theorem fault_of_exec {i : Instr} {s t : State} (h : exec i s = .next t) :
    t.fault = s.fault ∨ ∃ r, t = takeFault r s ∧ r.pc = s.instrAddr ∧ r.opcode = some (encode i) ∧ r.consistent := by
  cases effect_of_exec h with
  | fault code info hcons => exact .inr ⟨_, rfl, rfl, rfl, hcons⟩
  | _ => exact .inl rfl

/-- Settles O13: a fetch fault leaves the state before the step, an execution fault the state after the fetch, and its opcode is the
fetched one because an opcode has one spelling (R246, R247). -/
theorem faultsArePrecise : Obligations.FaultsArePrecise := by
  intro s t h
  obtain ⟨hf, ⟨r, hfetch, rfl⟩ | ⟨op, i, hfetch, hdec, hexec⟩ | ⟨op, -, -, rfl⟩⟩ := step_cases h
  · refine .inr ⟨r, rfl, ?_⟩
    rcases fetch_error s r hfetch with ⟨rfl, -⟩ | ⟨rfl, -⟩ <;> exact ⟨rfl, .inl ⟨rfl, rfl⟩⟩
  · rcases fault_of_exec hexec with hsame | ⟨r, rfl, hpc, hop, -⟩
    · exact .inl (hsame.trans hf)
    · obtain ⟨-, -, rfl⟩ := (fetch_ok_iff s op).1 hfetch
      rw [instrAddr_advancePc] at hpc
      rw [encode_of_decodeWord hdec] at hop
      exact .inr ⟨r, rfl, hpc, .inr ⟨hop, rfl⟩⟩
  · exact .inl hf

/-- Settles O14: only the report of an unknown opcode appends, and it takes no fault (R251). -/
theorem faultAndEventExclude : Obligations.FaultAndEventExclude := by
  intro s t h
  obtain ⟨hf, ⟨r, -, rfl⟩ | ⟨op, i, -, -, hexec⟩ | ⟨op, -, -, rfl⟩⟩ := step_cases h
  · exact ⟨.inl rfl, fun hne => absurd rfl hne⟩
  · have hevents : t.events = s.events := (exec_keeps hexec).1
    exact ⟨.inl hevents, fun hne => absurd hevents hne⟩
  · exact ⟨.inr ⟨_, rfl⟩, fun _ => hf⟩

end Sys2Proof.Machine
end

section
/-! The invariant and reset. Each part of the invariant has the updates that may break it, and a lemma for each says what keeps it; the
effects of an instruction, a boot and the host's moves are made of these updates (10_state R26 to R39; 60_exceptions R240 to R250). -/

namespace Sys2Proof.Machine

/-! ## The updates that the invariant sees -/

/-- The invariant speaks of six fields alone. -/
theorem inv_congr {s t : State} (hs : s.Inv) (hmem : t.mem = s.mem) (hpc : t.pc = s.pc) (hstack : t.stack = s.stack)
    (hparams : t.params = s.params) (hevents : t.events = s.events) (hfault : t.fault = s.fault) : t.Inv where
  memWf := hmem ▸ hs.memWf
  pcBound := hpc ▸ hs.pcBound
  stackEntries := hstack ▸ hs.stackEntries
  stackDepth := by rw [hparams, hstack]; exact hs.stackDepth
  eventsUnknown := hevents ▸ hs.eventsUnknown
  faultConsistent := hfault ▸ hs.faultConsistent
  faultPc := by rw [hfault, hpc]; exact hs.faultPc

theorem inv_takeFault {s : State} {r : FaultRecord} (hs : s.Inv) (hcons : r.consistent) (hpc : r.leavesPc s.pc) :
    (takeFault r s).Inv where
  memWf := hs.memWf
  pcBound := hs.pcBound
  stackEntries := hs.stackEntries
  stackDepth := hs.stackDepth
  eventsUnknown := hs.eventsUnknown
  faultConsistent := fun _ h => Option.some.inj h ▸ hcons
  faultPc := fun _ h => Option.some.inj h ▸ hpc

/-- Without a fault recorded, PC is free within its bound. -/
theorem inv_setPc {s : State} {w : Word} (hs : s.Inv) (hf : s.fault = none) (hw : w.toNat ≤ 0x10FE) : (s.setPc w).Inv where
  memWf := hs.memWf
  pcBound := hw
  stackEntries := hs.stackEntries
  stackDepth := hs.stackDepth
  eventsUnknown := hs.eventsUnknown
  faultConsistent := hs.faultConsistent
  faultPc := fun _ h => nomatch hf.symm.trans h

theorem inv_setMem {s : State} {m : Memory} (hs : s.Inv) (hm : m.wf) : (s.setMem m).Inv where
  memWf := hm
  pcBound := hs.pcBound
  stackEntries := hs.stackEntries
  stackDepth := hs.stackDepth
  eventsUnknown := hs.eventsUnknown
  faultConsistent := hs.faultConsistent
  faultPc := hs.faultPc

theorem inv_setStack {s : State} {l : List Word} (hs : s.Inv) (hentries : ∀ a ∈ l, 2 ≤ a.toNat ∧ a.toNat ≤ 0x1000)
    (hdepth : ∀ n, s.params.stackCapacity = .bounded n → l.length ≤ n) : (s.setStack l).Inv where
  memWf := hs.memWf
  pcBound := hs.pcBound
  stackEntries := hentries
  stackDepth := hdepth
  eventsUnknown := hs.eventsUnknown
  faultConsistent := hs.faultConsistent
  faultPc := hs.faultPc

theorem inv_emitEvent {s : State} {e : Event} (hs : s.Inv) (hdec : decodeWord e.opcode = none) (hpc : e.pc.toNat ≤ 0xFFE) :
    (emitEvent e s).Inv where
  memWf := hs.memWf
  pcBound := hs.pcBound
  stackEntries := hs.stackEntries
  stackDepth := hs.stackDepth
  eventsUnknown := by
    intro a ha
    rcases List.mem_append.1 ha with ha | ha
    · exact hs.eventsUnknown a ha
    · rw [List.mem_singleton.1 ha]
      exact ⟨hdec, hpc⟩
  faultConsistent := hs.faultConsistent
  faultPc := hs.faultPc

theorem length_lt_of_not_stackFull {s : State} {n : Nat} (h : s.stackFull = false) (hcap : s.params.stackCapacity = .bounded n) :
    s.stack.length < n := by
  rw [State.stackFull, hcap] at h
  exact Nat.lt_of_not_le (of_decide_eq_false h)

/-! ## A step -/

/-- The state after a fetch within memory. -/
structure Fetched (s : State) : Prop where
  inv : s.Inv
  running : s.fault = none
  pcLow : 2 ≤ s.pc.toNat
  pcHigh : s.pc.toNat ≤ 0x1000

theorem inv_push {s : State} (hs : Fetched s) (hroom : s.stackFull = false) : (s.push s.pc).Inv := by
  refine inv_setStack hs.inv (fun a ha => ?_) fun n hcap => ?_
  · rcases List.mem_append.1 ha with ha | ha
    · exact hs.inv.stackEntries a ha
    · rw [List.mem_singleton.1 ha]
      exact ⟨hs.pcLow, hs.pcHigh⟩
  · rw [List.length_append]
    exact length_lt_of_not_stackFull hroom hcap

theorem inv_pop {s : State} {below : List Word} {a : Word} (hs : s.Inv) (hstack : s.stack = below ++ [a]) :
    (s.setStack below).Inv := by
  have hentries := hs.stackEntries
  have hdepth := hs.stackDepth
  rw [hstack] at hentries hdepth
  refine inv_setStack hs (fun b hb => hentries b (List.mem_append_left _ hb)) fun n hcap => ?_
  exact (List.length_append ▸ Nat.le_add_right _ _).trans (hdepth n hcap)

/-- Every effect of an instruction keeps the invariant. -/
theorem inv_of_effect {i : Instr} {s t : State} (hs : Fetched s) (h : Effect i s t) : t.Inv := by
  have hhigh := hs.pcHigh
  cases h with
  | fault code info hcons => exact inv_takeFault hs.inv hcons (BitVec.sub_add_cancel _ _).symm
  | pc w _ hw => exact inv_setPc hs.inv hs.running (by omega)
  | call nnn _ hroom => exact inv_setPc (inv_push hs hroom) hs.running (by rw [toNat_zextAddr]; omega)
  | ret below a _ hstack =>
    obtain ⟨-, hle⟩ := hs.inv.stackEntries a (hstack ▸ List.mem_concat_self)
    exact inv_setPc (inv_pop hs.inv hstack) hs.running (by omega)
  | mem bs _ hfits => exact inv_setMem hs.inv (wf_putBlock hs.inv.memWf hfits)
  | regs | draw | sprite | clear | index | delay | sound => exact inv_congr hs.inv rfl rfl rfl rfl rfl rfl

/-- The address after an instruction within memory. -/
theorem toNat_add_two {w : Word} (h : w.toNat ≤ 0xFFE) : (w + 2).toNat = w.toNat + 2 := by
  rw [BitVec.toNat_add]
  exact Nat.mod_eq_of_lt (show w.toNat + 2 < 65536 by omega)

theorem fetched_advancePc {s : State} {op : Word} (hs : s.Inv) (hf : s.fault = none) (h : fetch s = .ok op) :
    Fetched s.advancePc := by
  obtain ⟨-, hin, -⟩ := (fetch_ok_iff s op).1 h
  have hpc := toNat_add_two (w := s.pc) (by omega)
  have hlow : 2 ≤ (s.pc + 2).toNat := by omega
  have hhigh : (s.pc + 2).toNat ≤ 0x1000 := by omega
  exact ⟨inv_setPc hs hf (by omega), hf, hlow, hhigh⟩

/-- The record of a fetch fault is consistent, and PC is where the fetch failed (R245, R243, R247). -/
theorem consistent_of_fetch_error {s : State} {r : FaultRecord} (h : fetch s = .error r) : r.consistent ∧ r.leavesPc s.pc := by
  rcases fetch_error s r h with ⟨rfl, hodd, -⟩ | ⟨rfl, hout⟩
  · exact ⟨hodd, rfl⟩
  · exact ⟨⟨rfl, Nat.lt_of_succ_lt_succ hout⟩, rfl⟩

/-- Settles O46: a fetch fault records consistently, an instruction runs from a fetched state, and the event of an unknown opcode names
the address that was fetched. -/
theorem stepKeepsInvariant : Obligations.StepKeepsInvariant := by
  intro s t hs h
  obtain ⟨hf, ⟨r, hfetch, rfl⟩ | ⟨op, i, hfetch, -, hexec⟩ | ⟨op, hfetch, hdec, rfl⟩⟩ := step_cases h
  · obtain ⟨hcons, hpc⟩ := consistent_of_fetch_error hfetch
    exact inv_takeFault hs hcons hpc
  · exact inv_of_effect (fetched_advancePc hs hf hfetch) (effect_of_exec hexec)
  · refine inv_emitEvent (fetched_advancePc hs hf hfetch).inv hdec ?_
    obtain ⟨-, hin, -⟩ := (fetch_ok_iff s op).1 hfetch
    change s.advancePc.instrAddr.toNat ≤ 0xFFE
    rw [instrAddr_advancePc]
    exact Nat.le_of_succ_le_succ hin

/-! ## The states a host can reach -/

theorem inv_resetWith (p : Params) (font : Font) : (State.resetWith p font).Inv where
  memWf := wf_putBlock wf_nil (by rw [Vector.length_toList]; decide)
  pcBound := show 0x200 ≤ 0x10FE by decide
  stackEntries := fun _ h => absurd h List.not_mem_nil
  stackDepth := fun _ _ => Nat.zero_le _
  eventsUnknown := fun _ h => absurd h List.not_mem_nil
  faultConsistent := fun _ h => nomatch h
  faultPc := fun _ h => nomatch h

/-- R285: a boot is a reset and the image stored at 0x200. -/
theorem boot_eq {p : Params} {font : Font} {image : List Byte} {s : State} (h : boot p font image = .ok s) :
    image.length ≤ 3584 ∧ s = (State.resetWith p font).setMem ((State.resetWith p font).mem.putBlock 0x200 image) := by
  rw [boot] at h
  rcases Nat.lt_or_ge 3584 image.length with hlong | hfits
  · rw [load_of_exceeds hlong] at h
    cases h
  · rw [load_of_fits hfits] at h
    exact ⟨hfits, (Except.ok.inj h).symm⟩

theorem inv_boot {p : Params} {font : Font} {image : List Byte} {s : State} (h : boot p font image = .ok s) : s.Inv := by
  obtain ⟨hfits, rfl⟩ := boot_eq h
  have hreset := inv_resetWith p font
  exact inv_setMem hreset (wf_putBlock hreset.memWf (by omega))

theorem inv_apply {s : State} (hs : s.Inv) (op : HostOp) : (op.apply s).1.Inv := by
  cases op with
  | step =>
    change (hostStep s).Inv
    rcases hostStep_cases s with h | h
    · rwa [h]
    · exact stepKeepsInvariant s _ hs h
  | setKeys | tick => exact inv_congr hs rfl rfl rfl rfl rfl rfl
  | framebuffer | tone | fault | events => exact hs

/-- Settles O48: by induction on the host's moves from a boot (R269, R285). -/
theorem reachableStatesMeetInvariant : Obligations.ReachableStatesMeetInvariant := by
  intro s h
  induction h with
  | boot p font image s _ hboot => exact inv_boot hboot
  | move op s _ ih => exact inv_apply ih op

/-- Settles O49: a step changes the parameters through none of its three ways, and the host's other moves write other fields (R281). -/
theorem parametersNeverChange : Obligations.ParametersNeverChange := by
  have hstep : ∀ s t : State, step s = .next t → t.params = s.params := by
    intro s t h
    obtain ⟨-, ⟨r, -, rfl⟩ | ⟨op, i, -, -, hexec⟩ | ⟨op, -, -, rfl⟩⟩ := step_cases h
    · rfl
    · exact (exec_keeps hexec).2
    · rfl
  refine ⟨hstep, fun op s => ?_⟩
  cases op with
  | step =>
    rcases hostStep_cases s with h | h
    · exact congrArg State.params h
    · exact hstep s _ h
  | setKeys | tick | framebuffer | tone | fault | events => rfl

/-! ## Reset -/

/-- Storing the default FONT over memory that lists nothing lists nothing: it reads as before (log 7). -/
theorem putBlock_defaultFont : Memory.putBlock [] 0 defaultFont.toList = [] := by
  refine wf_ext (wf_putBlock wf_nil (by rw [Vector.length_toList]; decide)) wf_nil fun a => ?_
  rw [read_putBlock, if_pos (Nat.zero_le a), Nat.sub_zero, Memory.read, Memory.resetByte, List.getD_eq_getElem?_getD,
    List.getD_eq_getElem?_getD]
  cases defaultFont.toList[a]? <;> rfl

theorem resetWith_default : State.resetWith Params.default defaultFont = State.reset := by
  rw [State.resetWith, putBlock_defaultFont]
  rfl

/-- Settles O47: the state after reset is the reset with the default parameters and FONT. -/
theorem resetMeetsInvariant : Obligations.ResetMeetsInvariant := by
  unfold Obligations.ResetMeetsInvariant
  rw [← resetWith_default]
  exact inv_resetWith _ _

/-- A byte of memory after reset: of the FONT in its 80 addresses, and 0 above (20_memory R61). -/
theorem read_resetWith (p : Params) (font : Font) (a : Nat) :
    (State.resetWith p font).mem.read a = font.toList.getD a (Memory.resetByte a) := by
  change (Memory.putBlock [] 0 font.toList).read a = _
  rw [read_putBlock, if_pos (Nat.zero_le a), Nat.sub_zero, Memory.read]

/-- Settles O50: the fields that reset writes by definition, and memory read back through the law of a block store (R39, R61). -/
theorem resetValues : Obligations.ResetValues := by
  refine ⟨fun p font => ⟨fun r => ?_, rfl, rfl, rfl, rfl, rfl, fun k => ?_, get_clear, fun a => ?_, fun a ha => ?_, rfl, rfl, rfl⟩,
    resetWith_default⟩
  · exact Vector.getElem_replicate ..
  · exact Vector.getElem_replicate ..
  · rw [read_resetWith, List.getD_eq_getElem _ _ (by rw [Vector.length_toList]; exact a.isLt), Vector.getElem_toList]
  · rw [read_resetWith, List.getD_eq_default _ _ (by rwa [Vector.length_toList])]
    exact List.getD_eq_default _ _ (by rwa [Vector.length_toList])

end Sys2Proof.Machine
end

section
/-! What no instruction reads. Replacing ST and the event log commutes with every instruction but `Fx18`, which overwrites ST: every
condition and every value written comes from other fields (10_state R30, R35). -/

namespace Sys2Proof.Machine

/-- The state with other contents in ST and in the event log. -/
def State.setUnread (s : State) (b : Byte) (es : List Event) : State := { s with st := b, events := es }

section
variable (s : State) (b : Byte) (es : List Event)

theorem setUnread_params : (s.setUnread b es).params = s.params := rfl

theorem setUnread_skipIf (c : Bool) : (s.setUnread b es).skipIf c = (s.skipIf c).setUnread b es := by
  cases c <;> rfl

theorem setUnread_writeResultAndFlag (x : Reg) (res : Byte) (flag : Bool) :
    (s.setUnread b es).writeResultAndFlag x res flag = (s.writeResultAndFlag x res flag).setUnread b es := by
  simp only [State.writeResultAndFlag, setUnread_params]
  split <;> rfl

theorem exec_ret_setUnread : exec .ret (s.setUnread b es) = mapNext (·.setUnread b es) (exec .ret s) := by
  rcases List.eq_nil_or_concat' s.stack with h | ⟨below, a, h⟩
  · rw [exec_ret_of_stack_nil h, exec_ret_of_stack_nil (s := s.setUnread b es) h]
    rfl
  · rw [exec_ret_of_stack_concat h, exec_ret_of_stack_concat (s := s.setUnread b es) h]
    rfl

theorem exec_ldVxK_setUnread (x : Reg) :
    exec (.ldVxK x) (s.setUnread b es) = mapNext (·.setUnread b es) (exec (.ldVxK x) s) := by
  cases h : firstKeyDown s.keys with
  | some k =>
    rw [exec_ldVxK_of_some x h, exec_ldVxK_of_some (s := s.setUnread b es) x h]
    rfl
  | none =>
    rw [exec_ldVxK_of_none x h, exec_ldVxK_of_none (s := s.setUnread b es) x h]
    rfl

theorem exec_setUnread {i : Instr} (hst : ∀ x, i ≠ .ldStVx x) :
    exec i (s.setUnread b es) = mapNext (·.setUnread b es) (exec i s) := by
  cases i with
  | ldStVx x => exact absurd rfl (hst x)
  | ret => exact exec_ret_setUnread s b es
  | ldVxK x => exact exec_ldVxK_setUnread s b es x
  | seImm | sneImm | seReg | sneReg => exact congrArg _ (setUnread_skipIf s b es _)
  | addReg | sub | shr | subn | shl => exact congrArg _ (setUnread_writeResultAndFlag s b es _ _ _)
  | call nnn => simp only [exec, execCall, apply_ite (mapNext _)]; rfl
  | skp x => simp only [exec, execSkp, apply_ite (mapNext _), mapNext_next, ← setUnread_skipIf]; rfl
  | sknp x => simp only [exec, execSknp, apply_ite (mapNext _), mapNext_next, ← setUnread_skipIf]; rfl
  | drw x y n => simp only [exec, execDrw_eq, apply_ite (mapNext _)]; rfl
  | ldB x => simp only [exec, execLdB_eq, apply_ite (mapNext _)]; rfl
  | store x => simp only [exec, execStore_eq, apply_ite (mapNext _)]; rfl
  | load x => simp only [exec, execLoad_eq, apply_ite (mapNext _)]; rfl
  | _ => rfl

end

theorem exec_setUnread_of_next {i : Instr} {s t : State} (h : exec i s = .next t) (hst : ∀ x, i ≠ .ldStVx x) (b : Byte)
    (es : List Event) : exec i (s.setUnread b es) = .next (t.setUnread b es) :=
  (exec_setUnread s b es hst).trans (congrArg (mapNext (·.setUnread b es)) h)

/-- Settles O45: an instruction other than `Fx18` carries ST and the log along, and `Fx18` overwrites ST (R30, R35). -/
theorem soundTimerAndLogUnread : Obligations.SoundTimerAndLogUnread := by
  refine ⟨fun i s t b h hst => ?_, fun x s b => rfl, fun i s t es h => ?_⟩
  · have hevents : t.events = s.events := (exec_keeps h).1
    exact (exec_setUnread_of_next h hst b s.events).trans (by rw [← hevents]; rfl)
  · by_cases hst : ∃ x, i = .ldStVx x
    · obtain ⟨x, rfl⟩ := hst
      cases h
      rfl
    · obtain ⟨-, -, -, -, hwrites, -⟩ := onlyNamedInstructionsWrite i s t h
      have hsame : t.st = s.st := not_imp_comm.1 hwrites hst
      exact (exec_setUnread_of_next h (fun x hx => hst ⟨x, hx⟩) s.st es).trans (by rw [← hsame]; rfl)

end Sys2Proof.Machine
end

section
/-! The control-flow statements that remain: the register skips, the jumps, the call and its return (40_control_flow R123 to R131). -/

namespace Sys2Proof.Machine

/-- R98: in families 5 and 9 another low nibble is no instruction. -/
theorem decodeWord_xyn_eq_none {f : Nat} (hf : f = 5 ∨ f = 9) (x y : Reg) {n : Fin 16} (hn : n ≠ 0) :
    decodeWord (wordXYN (f * 0x1000) x y n.val) = none := by
  have hlt : f < 16 := by omega
  have hsel : slice (wordXYN (f * 0x1000) x y n.val) 3 0 ≠ 0 := by
    rw [selectorN_wordXYN f hlt x y n.isLt]
    exact Fin.val_ne_zero_iff.2 hn
  have hfam := fieldInst_wordXYN f hlt x y n.isLt
  rcases hf with rfl | rfl <;> simp only [decodeWord, hfam, if_neg hsel]

/-- Settles O16: both skips are `skipIf` on their condition, and the selector of their families is 0 alone (R128, R129, R130). -/
theorem skipOnRegisters : Obligations.SkipOnRegisters := by
  intro x y s
  refine ⟨fun n hn => ⟨decodeWord_xyn_eq_none (.inl rfl) x y hn, decodeWord_xyn_eq_none (.inr rfl) x y hn⟩, spells_seReg x y,
    spells_sneReg x y, ?_, ?_⟩
  · simp only [exec, execSeReg, skipIf_eq, beq_iff_eq]
  · simp only [exec, execSneReg, skipIf_eq, bne_iff_ne]

theorem addrHighNibble_eq {nnn : Addr12} {r : Reg} (h : r.val = nnn.toNat / 256) : addrHighNibble nnn = r := by
  apply Fin.ext
  rw [addrHighNibble, Fin.val_ofNat, h]
  omega

theorem jumpOffset_of_v0 {s : State} (h : s.params.jumpOffsetReg = .v0) (nnn : Addr12) : s.jumpOffset nnn = s.reg 0 := by
  simp only [State.jumpOffset, h]

theorem jumpOffset_of_vx {s : State} (h : s.params.jumpOffsetReg = .vx) (nnn : Addr12) :
    s.jumpOffset nnn = s.reg (addrHighNibble nnn) := by
  simp only [State.jumpOffset, h]

/-- Settles O17: each jump is one `setPc`, and neither target reaches 16 bits (R124, R131). -/
theorem jumpsSetPc : Obligations.JumpsSetPc := by
  intro nnn s
  refine ⟨spells_jp nnn, spells_jpV0 nnn, ⟨zextAddr nnn, rfl, toNat_zextAddr nnn⟩,
    zextAddr nnn + zextByte (s.jumpOffset nnn), rfl, fun h => ?_, fun h r hr => ?_⟩
  · rw [toNat_zextAddr_add_zextByte, jumpOffset_of_v0 h]
  · rw [toNat_zextAddr_add_zextByte, jumpOffset_of_vx h, addrHighNibble_eq hr]

theorem stackFull_of_bounded {s : State} {n : Nat} (h : s.params.stackCapacity = .bounded n) :
    s.stackFull = decide (n ≤ s.stack.length) := by
  simp only [State.stackFull, h]

theorem stackFull_of_unbounded {s : State} (h : s.params.stackCapacity = .unbounded) : s.stackFull = false := by
  simp only [State.stackFull, h]

/-- Settles O18: by the capacity, equal to the depth, above it or absent (R125, R242). -/
theorem callPushesOrOverflows : Obligations.CallPushesOrOverflows := by
  intro nnn s
  refine ⟨spells_call nnn, fun hcap => ?_, fun hroom => ?_⟩
  · rw [Faults, exec_call_of_full nnn, raiseFault_eq]
    rw [stackFull_of_bounded hcap, decide_eq_true (Nat.le_refl _)]
  · refine exec_call_of_room nnn ?_
    rcases hroom with hcap | ⟨n, hcap, hlt⟩
    · exact stackFull_of_unbounded hcap
    · rw [stackFull_of_bounded hcap, decide_eq_false (Nat.not_le.mpr hlt)]

/-- Settles O20: a call that does not fault pushes the PC, and the return finds it as the last entry (R123, R125). -/
theorem returnComesBackAfterCall : Obligations.ReturnComesBackAfterCall := by
  intro nnn s t u hf h ht hu
  cases hfull : s.stackFull with
  | true =>
    rw [exec_call_of_full nnn hfull] at h
    cases h
    cases ht
  | false =>
    rw [exec_call_of_room nnn hfull] at h
    cases h
    exact exec_ret_of_stack_concat hu

end Sys2Proof.Machine
end

section
/-! The statements about registers that remain: the bitwise operations, the order of the two writes, the shifts and the random byte
(41_alu R150 to R162). -/

namespace Sys2Proof.Machine

/-- Settles O22: each is one `setReg`, of a value that the bit vector operation gives bit by bit (R154, R155, R156). -/
theorem bitwiseOperations : Obligations.BitwiseOperations := by
  intro x y s
  refine ⟨spells_orReg x y, spells_andReg x y, spells_xorReg x y, s.reg x ||| s.reg y, s.reg x &&& s.reg y, s.reg x ^^^ s.reg y,
    fun k _ => BitVec.getLsbD_or, fun k _ => BitVec.getLsbD_and, fun k _ => BitVec.getLsbD_xor, ?_⟩
  exact ⟨regsBecome_of_setReg rfl, regsBecome_of_setReg rfl, regsBecome_of_setReg rfl⟩

/-- Settles O23: what the two writes leave in each register, under each order (R150). -/
theorem flagWriteOrder : Obligations.FlagWriteOrder := by
  intro s x res f
  have hreg := fun q => reg_writeResultAndFlag s x q res f
  refine ⟨(s.writeResultAndFlag x res f).v, writeResultAndFlag_eq s x res f, fun h => ⟨?_, fun hx => ?_⟩,
    fun h => ⟨?_, fun hx => ?_⟩, fun r hx hF => ?_⟩
  · refine (hreg vF).trans ?_
    rw [if_pos rfl, if_neg (by rw [h]; simp), flagByte]
  · refine (hreg x).trans ?_
    rw [if_neg hx, if_pos rfl]
  · refine (hreg x).trans ?_
    by_cases hx : x = vF
    · rw [if_pos hx, if_pos ⟨hx, h⟩]
    · rw [if_neg hx, if_pos rfl]
  · refine (hreg vF).trans ?_
    rw [if_pos rfl, if_neg (fun hand => hx hand.1), flagByte]
  · refine (hreg r).trans ?_
    rw [if_neg hF, if_neg hx]

theorem shiftOperand_of_vy {s : State} (h : s.params.shiftSource = .vy) (x y : Reg) : s.shiftOperand x y = s.reg y := by
  simp only [State.shiftOperand, h]

theorem shiftRight_one_eq (b : Byte) : b >>> 1 = BitVec.ofNat 8 (b.toNat / 2) := by
  apply BitVec.eq_of_toNat_eq
  rw [BitVec.toNat_ushiftRight, Nat.shiftRight_one, BitVec.toNat_ofNat]
  omega

theorem shiftLeft_one_eq (b : Byte) : b <<< 1 = BitVec.ofNat 8 (b.toNat * 2) := by
  apply BitVec.eq_of_toNat_eq
  rw [BitVec.toNat_shiftLeft, Nat.shiftLeft_eq, Nat.pow_one, BitVec.toNat_ofNat]

/-- The value of bit `k`, as a flag byte. -/
theorem flagByte_getLsbD (b : Byte) (k : Nat) : flagByte (b.getLsbD k) = BitVec.ofNat 8 (b.toNat / 2 ^ k % 2) := by
  rw [BitVec.getLsbD, Nat.testBit_eq_decide_div_mod_eq, flagByte]
  rcases Nat.mod_two_eq_zero_or_one (b.toNat / 2 ^ k) with h | h <;> rw [h] <;> rfl

theorem flagByte_shiftedOutRight (b : Byte) : flagByte (shiftedOutRight b) = BitVec.ofNat 8 (b.toNat % 2) := by
  rw [shiftedOutRight, flagByte_getLsbD, Nat.pow_zero, Nat.div_one]

theorem flagByte_shiftedOutLeft (b : Byte) : flagByte (shiftedOutLeft b) = BitVec.ofNat 8 (b.toNat / 128) := by
  have hb : b.toNat / 2 ^ 7 < 2 := Nat.div_lt_of_lt_mul b.isLt
  exact (flagByte_getLsbD b 7).trans (congrArg (BitVec.ofNat 8) (Nat.mod_eq_of_lt hb))

/-- Settles O26: one `writeResultAndFlag` with the shifted source and the bit shifted out, both as arithmetic (R159, R161). -/
theorem shiftsByOne : Obligations.ShiftsByOne := by
  intro x y src s hsrc
  have hoperand : s.shiftOperand x y = s.reg src := by
    rcases hsrc with ⟨h, rfl⟩ | ⟨h, rfl⟩
    · exact shiftOperand_of_vx h _ _
    · exact shiftOperand_of_vy h _ _
  refine ⟨spells_shr x y, spells_shl x y, ?_, ?_⟩
  · rw [← hoperand, ← shiftRight_one_eq, ← flagByte_shiftedOutRight]
    exact regsBecome_of_writeResultAndFlag rfl
  · rw [← hoperand, ← shiftLeft_one_eq, ← flagByte_shiftedOutLeft]
    exact regsBecome_of_writeResultAndFlag rfl

/-- Settles O27: one `setReg` of the masked byte and one `countDraw`; a bit of the masked byte is a bit of the mask (R162). -/
theorem randomByteIsMasked : Obligations.RandomByteIsMasked := by
  intro x nn s
  have hreg := fun q => reg_setReg s x q (s.drawnByte &&& nn)
  have hx : (s.setReg x (s.drawnByte &&& nn)).reg x = Config.rand s.draws &&& nn := (hreg x).trans (if_pos rfl)
  refine ⟨spells_rnd x nn, (s.setReg x (s.drawnByte &&& nn)).v, rfl, hx, fun k _ hk => ?_, fun hnn => ?_,
    fun r hr => (hreg r).trans (if_neg hr)⟩
  · rw [show (s.setReg x (s.drawnByte &&& nn)).v[x.val] = _ from hx, BitVec.getLsbD_and, Bool.and_eq_true] at hk
    exact hk.2
  · refine hx.trans ?_
    rw [hnn]
    exact BitVec.and_zero

end Sys2Proof.Machine
end

section
/-! The index register and the transfers. A store is one `putBlock` and a load one `setLowRegs` when the last byte fits, and a fault at
the first address out of bounds otherwise; bytes and registers are read back through the laws of the two (42_index_memory R180 to R186;
20_memory R63 to R74). -/

namespace Sys2Proof.Machine

/-! ## The index register -/

theorem toNat_glyphAddr (b : Byte) : (glyphAddr b).toNat = b.toNat * 5 := by
  have hb := b.isLt
  rw [glyphAddr, BitVec.toNat_mul, toNat_zextByte]
  exact Nat.mod_eq_of_lt (show b.toNat * 5 < 65536 by omega)

/-- Settles O28: each is one `setI`, and its value as arithmetic (R180, R181, R182). -/
theorem indexRegisterWrites : Obligations.IndexRegisterWrites := by
  intro x nnn s
  refine ⟨spells_ldI nnn, spells_addI x, spells_ldF x, ⟨zextAddr nnn, rfl, toNat_zextAddr nnn⟩,
    ⟨s.i + zextByte (s.reg x), rfl, ?_⟩, ⟨glyphAddr (s.reg x), rfl, toNat_glyphAddr _⟩⟩
  rw [BitVec.toNat_add, toNat_zextByte]

/-! ## The first address out of bounds -/

/-- A block has a first address above 0xFFF exactly when it does not fit, and it is the base or the first address there. -/
theorem eq_of_firstOutOfBounds {base n a : Nat} (h : FirstOutOfBounds base n a) :
    a = max base 0x1000 ∧ 0x1000 < base + n ∧ n ≠ 0 := by
  obtain ⟨k, hk, rfl, habove, hbelow⟩ := h
  cases k with
  | zero => omega
  | succ k =>
    have hlast := hbelow k (Nat.lt_succ_self k)
    omega

theorem faults_of_raiseFault {i : Instr} {s : State} {code : FaultCode} {info : FaultInfo}
    (h : exec i s = raiseFault i code info s) : Faults i s code info := h

/-! ## The stores -/

/-- A block of three bytes laid over memory, address by address. -/
theorem read_putBlock_three (m : Memory) (base : Nat) (b c d : Byte) (a : Nat) :
    (m.putBlock base [b, c, d]).read a =
      if a = base then b else if a = base + 1 then c else if a = base + 2 then d else m.read a := by
  rw [read_putBlock]
  rcases Nat.lt_or_ge a base with h | h
  · rw [if_neg (Nat.not_le.mpr h), if_neg (by omega), if_neg (by omega), if_neg (by omega)]
  · obtain ⟨k, rfl⟩ := Nat.exists_eq_add_of_le h
    rw [if_pos h, Nat.add_sub_cancel_left]
    match k with
    | 0 => simp
    | 1 => simp
    | 2 => simp
    | k + 3 => simp

/-- Settles O29: the three digits are one block store at I (R183). -/
theorem storeDecimalDigits : Obligations.StoreDecimalDigits := by
  intro x s
  refine ⟨spells_ldB x, fun hfits => ?_, fun a ha => ?_⟩
  · exact ⟨_, exec_ldB_of_fits x hfits, read_putBlock_three s.mem s.base _ _ _⟩
  · obtain ⟨rfl, hout, -⟩ := eq_of_firstOutOfBounds ha
    exact faults_of_raiseFault (exec_ldB_of_exceeds x (by omega))

theorem getElem_lowRegs {s : State} {x k : Reg} (h : k.val < (s.lowRegs x).length) : (s.lowRegs x)[k.val] = s.reg k := by
  simp only [State.lowRegs, List.getElem_take, Vector.getElem_toList, State.reg]

theorem lt_length_lowRegs {s : State} {x k : Reg} (h : k ≤ x) : k.val < (s.lowRegs x).length := by
  rw [length_lowRegs]
  exact Nat.lt_succ_of_le h

/-- What a store of V0 to V[x] leaves at I + k (R184). -/
theorem read_putBlock_lowRegs {s : State} {x k : Reg} (h : k ≤ x) :
    (s.mem.putBlock s.base (s.lowRegs x)).read (s.base + k.val) = s.reg k :=
  (read_putBlock_inside s.mem s.base (lt_length_lowRegs h)).trans (getElem_lowRegs _)

/-- Settles O30: the registers are one block store at I, read inside and outside the block (R184). -/
theorem storeRegisterBlock : Obligations.StoreRegisterBlock := by
  intro x s
  refine ⟨spells_store x, fun hfits => ⟨_, exec_store_of_fits hfits, fun k hk => read_putBlock_lowRegs hk, fun a ha => ?_⟩,
    fun a ha => ?_⟩
  · refine read_putBlock_outside s.mem ?_
    rw [length_lowRegs]
    omega
  · obtain ⟨rfl, hout, -⟩ := eq_of_firstOutOfBounds ha
    exact faults_of_raiseFault (exec_store_of_exceeds (by omega))

/-! ## The load -/

/-- Every register after `Fx65` within bounds (R185). -/
theorem regsBecome_load {s : State} {x : Reg} (h : s.base + x.val ≤ 0xFFF) :
    RegsBecome (.load x) s fun r => if r ≤ x then s.mem.read (s.base + r.val) else s.reg r := by
  refine ⟨_, exec_load_of_fits h, fun r => (reg_setLowRegs s _ r).trans ?_⟩
  by_cases hr : r ≤ x
  · have hlt : r.val < x.val + 1 := Nat.lt_succ_of_le hr
    rw [List.getD_eq_getElem _ _ (by rwa [List.length_map, List.length_range]), List.getElem_map, List.getElem_range]
    exact (if_pos hr).symm
  · have hge : x.val + 1 ≤ r.val := Nat.lt_of_not_le hr
    rw [List.getD_eq_default _ _ (by rwa [List.length_map, List.length_range])]
    exact (if_neg hr).symm

/-- Settles O31: by whether the last byte fits (R185). -/
theorem loadRegisterBlock : Obligations.LoadRegisterBlock := by
  intro x s
  refine ⟨spells_load x, regsBecome_load, fun a ha => ?_⟩
  obtain ⟨rfl, hout, -⟩ := eq_of_firstOutOfBounds ha
  exact faults_of_raiseFault (exec_load_of_exceeds (by omega))

/-- Settles O32: a store that does not fault fits, so the load at the same I fits and reads the stored registers (R186). -/
theorem storeThenLoadRestores : Obligations.StoreThenLoadRestores := by
  intro x s t v' hf h ht
  by_cases hfits : s.base + x.val ≤ 0xFFF
  · rw [exec_store_of_fits hfits] at h
    cases h
    obtain ⟨u, hu, hreg⟩ := regsBecome_load (s := { s.setMem (s.mem.putBlock s.base (s.lowRegs x)) with v := v' }) hfits
    exact ⟨u, hu, fun r hr => (hreg r).trans ((if_pos hr).trans (read_putBlock_lowRegs hr))⟩
  · rw [exec_store_of_exceeds hfits] at h
    cases h
    cases ht

/-! ## The fetch after a store -/

/-- After a block store the fetch answers the opcode with the block in place (20_memory R74). -/
theorem fetchesOver_setMem {s : State} (hpc : s.pc.toNat % 2 = 0 ∨ s.params.oddPcPolicy = .fetch) (hin : s.pc.toNat + 1 ≤ 0xFFF)
    (base : Nat) (bs : List Byte) : FetchesOver s (s.setMem (s.mem.putBlock base bs)) base bs := by
  refine (fetch_of_inside (s := s.setMem (s.mem.putBlock base bs)) hpc hin).trans ?_
  rw [State.opcodeAtPc, setMem_mem, setMem_pc, read_putBlock_overlaid, read_putBlock_overlaid]

theorem lowRegs_eq_ofFn (s : State) (x : Reg) : s.lowRegs x = (List.ofFn fun r : Reg => s.reg r).take (x.val + 1) := by
  have hall : s.v.toList = List.ofFn fun r : Reg => s.reg r :=
    List.ext_getElem (by rw [Vector.length_toList, List.length_ofFn]) fun k _ _ => by
      rw [Vector.getElem_toList, List.getElem_ofFn, State.reg]
  rw [State.lowRegs, hall]

/-- Settles O33: both stores are block stores at I (20_memory R74; 70_reset R289). -/
theorem storedCodeIsFetched : Obligations.StoredCodeIsFetched := by
  intro x s hpc hin
  refine ⟨fun hfits => ⟨_, exec_store_of_fits hfits, ?_⟩, fun hfits => ⟨_, exec_ldB_of_fits x hfits, ?_⟩⟩
  · rw [← lowRegs_eq_ofFn]
    exact fetchesOver_setMem hpc hin s.base _
  · exact fetchesOver_setMem hpc hin s.base _

/-! ## The primitives -/

/-- Settles O34: each primitive is one check of the address, and a write is one `put` (20_memory R63, R64, R65). -/
theorem memoryPrimitives : Obligations.MemoryPrimitives := by
  intro m a b
  refine ⟨fun hout => ⟨if_pos hout, if_pos hout⟩, fun hin => ?_⟩
  have hle : ¬ a > 0xFFF := Nat.not_lt.mpr hin
  refine ⟨if_neg hle, m.put a b, if_neg hle, ?_, ?_, ?_⟩
  · rw [read_put, if_pos rfl]
  · exact fun c hc => by rw [read_put, if_neg hc]
  · exact fun hm => wf_put hm hin b

end Sys2Proof.Machine
end

section
/-! The draw. A sprite is a list of pixels to toggle, those its set bits fall on; they are all distinct, since the rows are fewer than 32
and the columns fewer than 64. Toggling distinct pixels is an exclusive or, and the collision flag says whether one of them was set
(43_display R200 to R203). -/

namespace Sys2Proof.Machine

/-- Settles O35: blit is one `set`, read back at the pixel and elsewhere (R200). -/
theorem blitTogglesOnePixel : Obligations.BlitTogglesOnePixel := by
  intro fb px py
  refine ⟨rfl, (get_set ..).trans (if_pos ⟨rfl, rfl⟩), fun qx qy hne => (get_set ..).trans (if_neg ?_)⟩
  rintro ⟨rfl, rfl⟩
  exact hne rfl

/-! ## Toggling a list of pixels -/

/-- A pixel as column and row. -/
abbrev Pixel := Fin 64 × Fin 32

/-- One blit, its collision collected. -/
def toggle (acc : Framebuffer × Bool) (p : Pixel) : Framebuffer × Bool :=
  ((blit acc.1 p.1 p.2).1, acc.2 || (blit acc.1 p.1 p.2).2)

theorem get_toggle (acc : Framebuffer × Bool) (p q : Pixel) :
    (toggle acc p).1.get q.1 q.2 = (acc.1.get q.1 q.2 ^^ decide (q = p)) := by
  obtain ⟨-, hat, helse⟩ := blitTogglesOnePixel acc.1 p.1 p.2
  by_cases h : q = p
  · rw [h, decide_eq_true rfl, Bool.xor_true]
    exact hat
  · rw [decide_eq_false h, Bool.xor_false]
    exact helse q.1 q.2 h

theorem get_foldl_toggle {ps : List Pixel} (hnd : ps.Nodup) (acc : Framebuffer × Bool) (q : Pixel) :
    (ps.foldl toggle acc).1.get q.1 q.2 = (acc.1.get q.1 q.2 ^^ decide (q ∈ ps)) := by
  induction ps generalizing acc with
  | nil => simp
  | cons p ps ih =>
    obtain ⟨hp, hnd⟩ := List.nodup_cons.1 hnd
    rw [List.foldl_cons, ih hnd, get_toggle, Bool.xor_assoc]
    congr 1
    by_cases hq : q = p
    · subst hq
      simp [hp]
    · simp [hq]

/-- A pixel toggled earlier in the list is another one, so each is seen as it was at the start. -/
theorem snd_foldl_toggle {ps : List Pixel} (hnd : ps.Nodup) (acc : Framebuffer × Bool) :
    (ps.foldl toggle acc).2 = true ↔ acc.2 = true ∨ ∃ p ∈ ps, acc.1.get p.1 p.2 = true := by
  induction ps generalizing acc with
  | nil => simp
  | cons p ps ih =>
    obtain ⟨hp, hnd⟩ := List.nodup_cons.1 hnd
    have hhead : (toggle acc p).2 = true ↔ acc.2 = true ∨ acc.1.get p.1 p.2 = true := Bool.or_eq_true_iff
    have htail : (∃ q ∈ ps, (toggle acc p).1.get q.1 q.2 = true) ↔ ∃ q ∈ ps, acc.1.get q.1 q.2 = true :=
      exists_congr fun q => and_congr_right fun hq => by
        rw [get_toggle, decide_eq_false (ne_of_mem_of_not_mem hq hp), Bool.xor_false]
    rw [List.foldl_cons, ih hnd, hhead, htail, or_assoc]
    simp only [List.mem_cons, exists_eq_or_imp]

/-! ## The pixels of a sprite -/

/-- The pixel that row `row` and column `col` of a sprite fall on, with wrap in both directions (R202). -/
def pixelAt (ox oy row col : Nat) : Pixel := (Fin.ofNat 64 (ox + col), Fin.ofNat 32 (oy + row))

/-- The pixels that the set bits of one row fall on. -/
def rowPixels (ox oy row : Nat) (b : Byte) : List Pixel := ((List.range 8).filter (spriteBit b)).map (pixelAt ox oy row)

/-- The pixels that the set bits of the rows from number `row` on fall on. -/
def spritePixels (ox oy : Nat) : Nat → List Byte → List Pixel
  | _, [] => []
  | row, b :: bs => rowPixels ox oy row b ++ spritePixels ox oy (row + 1) bs

theorem drawRow_eq_foldl (ox oy row : Nat) (b : Byte) (acc : Framebuffer × Bool) :
    drawRow ox oy row b acc = (rowPixels ox oy row b).foldl toggle acc := by
  rw [drawRow, rowPixels, List.foldl_map, List.foldl_filter]
  rfl

theorem drawRows_eq_foldl (ox oy : Nat) (bs : List Byte) (row : Nat) (acc : Framebuffer × Bool) :
    drawRows ox oy row bs acc = (spritePixels ox oy row bs).foldl toggle acc := by
  induction bs generalizing row acc with
  | nil => rfl
  | cons b bs ih => rw [drawRows, ih, drawRow_eq_foldl, spritePixels, List.foldl_append]

theorem mem_rowPixels {ox oy row : Nat} {b : Byte} {p : Pixel} :
    p ∈ rowPixels ox oy row b ↔ ∃ col, col < 8 ∧ spriteBit b col = true ∧ p = pixelAt ox oy row col := by
  simp only [rowPixels, List.mem_map, List.mem_filter, List.mem_range, and_assoc, eq_comm]

/-- A pixel of the sprite is where a set bit of one of its rows falls. -/
theorem mem_spritePixels {ox oy : Nat} {bs : List Byte} {row : Nat} {p : Pixel} :
    p ∈ spritePixels ox oy row bs ↔
      ∃ k col, ∃ h : k < bs.length, col < 8 ∧ spriteBit bs[k] col = true ∧ p = pixelAt ox oy (row + k) col := by
  induction bs generalizing row with
  | nil => simp [spritePixels]
  | cons b bs ih =>
    rw [spritePixels, List.mem_append, mem_rowPixels, ih]
    constructor
    · rintro (⟨col, h⟩ | ⟨k, col, hk, h⟩)
      · exact ⟨0, col, Nat.succ_pos _, h⟩
      · exact ⟨k + 1, col, Nat.succ_lt_succ hk, by rwa [Nat.add_right_comm] at h⟩
    · rintro ⟨k, col, hk, h⟩
      cases k with
      | zero => exact .inl ⟨col, h⟩
      | succ k => exact .inr ⟨k, col, Nat.lt_of_succ_lt_succ hk, by rwa [Nat.add_right_comm]⟩

/-- Fewer than 64 columns: the columns of a row fall on distinct pixels. -/
theorem nodup_rowPixels (ox oy row : Nat) (b : Byte) : (rowPixels ox oy row b).Nodup := by
  refine (List.nodup_map_iff_inj_on (List.nodup_range.filter _)).2 fun c hc d hd h => ?_
  have hc : c < 8 := List.mem_range.1 (List.mem_of_mem_filter hc)
  have hd : d < 8 := List.mem_range.1 (List.mem_of_mem_filter hd)
  have hcol : (ox + c) % 64 = (ox + d) % 64 := congrArg (fun p : Pixel => p.1.val) h
  omega

/-- At most 32 rows: different rows fall on different rows of pixels. -/
theorem nodup_spritePixels (ox oy : Nat) {bs : List Byte} (row : Nat) (hlen : bs.length ≤ 32) :
    (spritePixels ox oy row bs).Nodup := by
  induction bs generalizing row with
  | nil => exact List.nodup_nil
  | cons b bs ih =>
    rw [List.length_cons] at hlen
    refine List.nodup_append'.2 ⟨nodup_rowPixels ox oy row b, ih (row + 1) (Nat.le_of_succ_le hlen), fun p hp hq => ?_⟩
    obtain ⟨c, -, -, rfl⟩ := mem_rowPixels.1 hp
    obtain ⟨k, d, hk, -, -, h⟩ := mem_spritePixels.1 hq
    have hrow : (oy + row) % 32 = (oy + (row + 1 + k)) % 32 := congrArg (fun p : Pixel => p.2.val) h
    omega

/-! ## The sprite of a `Dxyn` -/

theorem length_spriteRows (s : State) (n : Nat) : (s.spriteRows n).length = n := by
  rw [State.spriteRows, List.length_map, List.length_range]

theorem mem_spritePixels_iff_covers (s : State) (n ox oy : Nat) (px : Fin 64) (py : Fin 32) :
    (px, py) ∈ spritePixels ox oy 0 (s.spriteRows n) ↔ SpriteCovers s.mem s.base n ox oy px py := by
  rw [mem_spritePixels, SpriteCovers]
  simp only [State.spriteRows, List.length_map, List.length_range, List.getElem_map, List.getElem_range, spriteBit, pixelAt,
    Prod.mk.injEq, Fin.ext_iff, Fin.val_ofNat, Nat.zero_add, exists_prop]

section
variable (s : State) (ox oy : Nat) {n : Nat} (hn : n ≤ 32)
include hn

theorem drawSprite_eq_foldl : drawSprite s.fb ox oy (s.spriteRows n) =
      (spritePixels ox oy 0 (s.spriteRows n)).foldl toggle (s.fb, false) ∧
    (spritePixels ox oy 0 (s.spriteRows n)).Nodup :=
  ⟨drawRows_eq_foldl .., nodup_spritePixels ox oy 0 (by rwa [length_spriteRows])⟩

/-- The closed form of a draw (R203). -/
theorem get_drawSprite (px : Fin 64) (py : Fin 32) :
    (drawSprite s.fb ox oy (s.spriteRows n)).1.get px py = true ↔
      Xor (s.fb.get px py = true) (SpriteCovers s.mem s.base n ox oy px py) := by
  obtain ⟨hdraw, hnd⟩ := drawSprite_eq_foldl s ox oy hn
  rw [hdraw, get_foldl_toggle hnd _ (px, py), ← mem_spritePixels_iff_covers]
  by_cases hp : (px, py) ∈ spritePixels ox oy 0 (s.spriteRows n) <;> simp [hp, Xor]

/-- The collision flag of a draw (R202). -/
theorem snd_drawSprite :
    (drawSprite s.fb ox oy (s.spriteRows n)).2 = true ↔
      ∃ px py, s.fb.get px py = true ∧ SpriteCovers s.mem s.base n ox oy px py := by
  obtain ⟨hdraw, hnd⟩ := drawSprite_eq_foldl s ox oy hn
  rw [hdraw, snd_foldl_toggle hnd, or_iff_right Bool.false_ne_true, Prod.exists]
  simp only [mem_spritePixels_iff_covers, and_comm]

end

/-- Settles O37: the sprite's pixels are distinct, so a draw toggles each once, and its flag says whether one was set (R202, R203). -/
theorem drawIsXorWithCollision : Obligations.DrawIsXorWithCollision := by
  intro x y n s
  have hn : n.val ≤ 32 := by omega
  have hflag := snd_drawSprite s (s.originX x) (s.originY y) hn
  have hreg := fun r => reg_setReg s vF r (flagByte (drawSprite s.fb (s.originX x) (s.originY y) (s.spriteRows n.val)).2)
  refine ⟨spells_drw x y n, fun hfits => ⟨_, _, exec_drw_of_fits x y (by omega), get_drawSprite s _ _ hn, fun hhit => ?_,
    fun hmiss => ?_, fun r hr => (hreg r).trans (if_neg hr)⟩, fun a ha => ?_⟩
  · refine (hreg vF).trans ((if_pos rfl).trans ?_)
    rw [hflag.2 hhit]
    rfl
  · refine (hreg vF).trans ((if_pos rfl).trans ?_)
    rw [Bool.eq_false_iff.2 (mt hflag.1 hmiss)]
    rfl
  · obtain ⟨rfl, hout, hn⟩ := eq_of_firstOutOfBounds ha
    exact faults_of_raiseFault (exec_drw_of_exceeds x y (by omega))

end Sys2Proof.Machine
end

section
/-! The key statements. A key skip is `skipIf` on one key, or the fault of an index above 15; the wait takes the first key of the search
in rising order, or goes back to its own address (44_input_timers R220 to R222; 70_reset R292). -/

namespace Sys2Proof.Machine

theorem keyDown_val (keys : KeySnapshot) (k : Fin 16) : keyDown keys k.val = keys[k.val] := dif_pos k.isLt

/-- Settles O39: by whether the index names a key (R220, R221, R244). -/
theorem skipOnKey : Obligations.SkipOnKey := by
  intro x s
  refine ⟨spells_skp x, spells_sknp x, fun k hk => ?_, fun habove => ?_⟩
  · have hle : (s.reg x).toNat ≤ 15 := hk ▸ Nat.le_of_lt_succ k.isLt
    rw [exec_skp_of_le hle, exec_sknp_of_le hle, skipIf_eq, skipIf_eq, hk, keyDown_val]
    cases s.keys[k.val] <;> exact ⟨rfl, rfl⟩
  · exact ⟨faults_of_raiseFault (exec_skp_of_above habove), faults_of_raiseFault (exec_sknp_of_above habove)⟩

/-- R222: the search answers the smallest key that is down. -/
theorem firstKeyDown_eq_some {keys : KeySnapshot} {k : Fin 16} (hk : keys[k.val] = true)
    (hbelow : ∀ j : Fin 16, j < k → keys[j.val] = false) : firstKeyDown keys = some k.val := by
  refine List.find?_range_eq_some.2 ⟨(keyDown_val keys k).trans hk, List.mem_range.2 k.isLt, fun j hj => ?_⟩
  rw [keyDown_val keys ⟨j, hj.trans k.isLt⟩, hbelow ⟨j, hj.trans k.isLt⟩ hj]
  rfl

theorem firstKeyDown_eq_none {keys : KeySnapshot} (h : ∀ k : Fin 16, keys[k.val] = false) : firstKeyDown keys = none := by
  refine List.find?_eq_none.2 fun k hk => ?_
  rw [keyDown_val keys ⟨k, List.mem_range.1 hk⟩, h ⟨k, List.mem_range.1 hk⟩]
  exact Bool.false_ne_true

/-- Settles O40: by the answer of the search (R222). -/
theorem waitForKey : Obligations.WaitForKey := by
  intro x s
  refine ⟨spells_ldVxK x, fun k hk hbelow => ?_, fun hnone => ?_⟩
  · exact regsBecome_of_setReg (exec_ldVxK_of_some x (firstKeyDown_eq_some hk hbelow))
  · refine ⟨_, exec_ldVxK_of_none x (firstKeyDown_eq_none hnone), ?_⟩
    rw [BitVec.toNat_ofNat, Nat.max_zero]
    omega

/-! ## Steps of a frame -/

/-- The host's step does nothing on a halted core, so stopping early and stepping on are the same (R268). -/
theorem stepUpTo_eq_iterate (n : Nat) (s : State) : stepUpTo n s = hostStep^[n] s := by
  induction n generalizing s with
  | zero => rfl
  | succ n ih =>
    rw [stepUpTo]
    cases hf : s.fault with
    | some r => exact (Function.iterate_fixed (hostStep_of_halted hf) (n + 1)).symm
    | none => exact ih (hostStep s)

theorem stepUpTo_of_step_self {s : State} (h : step s = .next s) (n : Nat) : stepUpTo n s = s := by
  rw [stepUpTo_eq_iterate]
  exact Function.iterate_fixed (hostStep_of_step h) n

/-- A step at an even PC within memory runs the instruction that the opcode there spells. -/
theorem step_of_opcodeAtPc {s : State} {i : Instr} (hf : s.fault = none) (heven : s.pc.toNat % 2 = 0) (hin : s.pc.toNat ≤ 0xFFE)
    (hdec : decodeWord s.opcodeAtPc = some i) : step s = exec i s.advancePc :=
  step_of_decodes hf (fetch_of_inside (.inl heven) (Nat.succ_le_succ hin)) hdec

/-- Settles O42: the wait sets PC back by the 2 that the fetch added, so the step changes nothing, and so do any number (R292). -/
theorem unsatisfiedWaitSpins : Obligations.UnsatisfiedWaitSpins := by
  intro s x n hf heven hin hdec hkeys
  have hback : BitVec.ofNat 16 (s.advancePc.pc.toNat - 2) = s.pc := by
    rw [advancePc_pc, toNat_add_two hin, Nat.add_sub_cancel, BitVec.ofNat_toNat, BitVec.setWidth_eq]
  have hstep : step s = .next s := by
    rw [step_of_opcodeAtPc hf heven hin hdec, exec_ldVxK_of_none (s := s.advancePc) x (firstKeyDown_eq_none hkeys), hback]
    rfl
  exact ⟨hstep, stepUpTo_of_step_self hstep n⟩

end Sys2Proof.Machine
end

section
/-! The host's statements that remain: the frame, the terminal loop, the tone edges, the halted core, the budget and the assembler
(60_exceptions R255, R266 to R270; 30_encoding R101, R102). -/

namespace Sys2Proof.Machine

/-- Settles O56: the steps of a frame are the host's step iterated (R268). -/
theorem frameSequence : Obligations.FrameSequence := by
  intro ipf k s
  rw [frame, stepUpTo_eq_iterate]
  rfl

/-- The parts of the definition of R267. -/
theorem atTerminalLoop_iff (s : State) :
    s.atTerminalLoop = true ↔
      s.pc.toNat % 2 = 0 ∧ s.pc.toNat ≤ 0xFFE ∧ s.opcodeAtPc = encode (.jp (s.pc.setWidth 12)) := by
  simp only [State.atTerminalLoop, Bool.and_eq_true, beq_iff_eq, decide_eq_true_eq, and_assoc]

/-- R267: the jump at a terminal loop goes to its own address. -/
theorem step_of_atTerminalLoop {s : State} (hf : s.fault = none) (h : s.atTerminalLoop = true) : step s = .next s := by
  obtain ⟨heven, hin, hop⟩ := (atTerminalLoop_iff s).1 h
  have hdec : decodeWord s.opcodeAtPc = some (.jp (s.pc.setWidth 12)) := by rw [hop, decodeWord_encode]
  have htarget : zextAddr (s.pc.setWidth 12) = s.pc := by
    apply BitVec.eq_of_toNat_eq
    rw [toNat_zextAddr, BitVec.toNat_setWidth]
    omega
  rw [step_of_opcodeAtPc hf heven hin hdec, exec, execJp, htarget]
  rfl

/-- Settles O57: the step changes nothing, and the host's other moves write keys and timers alone, which the loop does not read (R267). -/
theorem terminalLoopStays : Obligations.TerminalLoopStays := by
  intro s hf h
  have hstep := step_of_atTerminalLoop hf h
  refine ⟨hstep, fun op => ?_⟩
  cases op with
  | step =>
    have hsame : (HostOp.step.apply s).1 = s := hostStep_of_step hstep
    rw [hsame]
    exact ⟨h, rfl⟩
  | setKeys | tick | framebuffer | tone | fault | events => exact ⟨h, rfl⟩

/-! ## The tone -/

theorem tone_of_zero {s : State} (h : s.st = 0) : s.tone = false := by
  rw [tone_eq_decide]
  exact decide_eq_false (not_not_intro h)

theorem tone_of_ne_zero {s : State} (h : s.st ≠ 0) : s.tone = true := by
  rw [tone_eq_decide]
  exact decide_eq_true h

/-- A tick brings ST to 0 exactly from 0 and from 1. -/
theorem st_tick_eq_zero_iff (s : State) : (tick s).st = 0 ↔ s.st.toNat ≤ 1 := by
  change countDown s.st = 0 ↔ _
  rw [BitVec.toNat_eq, countDown_toNat]
  exact Nat.sub_eq_zero_iff_le

/-- Settles O54: the level before and after, by whether ST is 0 (R255). -/
theorem toneEdges : Obligations.ToneEdges := by
  refine ⟨fun s => by rw [tone_eq_decide, decide_eq_true_eq], fun x s t h => ?_, fun s => ⟨fun h => ?_, fun h => ?_⟩⟩
  · rw [exec_ldStVx] at h
    cases h
    refine ⟨fun hst hx => ?_, fun hst hx => ?_, fun hst hx => ?_⟩
    · rw [tone_of_zero hst, tone_of_ne_zero (s := s.setSt (s.reg x)) hx, toneEdge]
    · rw [tone_of_ne_zero hst, tone_of_zero (s := s.setSt (s.reg x)) hx, toneEdge]
    · rw [tone_of_ne_zero hst, tone_of_ne_zero (s := s.setSt (s.reg x)) hx, toneEdge]
  · have hafter : (tick s).st = 0 := (st_tick_eq_zero_iff s).2 (by rw [h]; decide)
    rw [tone_of_ne_zero (by rw [h]; decide), tone_of_zero hafter, toneEdge]
  · by_cases hst : s.st = 0
    · have hafter : (tick s).st = 0 := (st_tick_eq_zero_iff s).2 (by rw [hst]; decide)
      rw [tone_of_zero hst, tone_of_zero hafter, toneEdge]
    · have hafter : (tick s).st ≠ 0 := fun hzero => by
        rcases Nat.le_one_iff_eq_zero_or_eq_one.1 ((st_tick_eq_zero_iff s).1 hzero) with h0 | h1
        · exact hst (BitVec.eq_of_toNat_eq h0)
        · exact h (BitVec.eq_of_toNat_eq h1)
      rw [tone_of_ne_zero hst, tone_of_ne_zero hafter, toneEdge]

/-! ## The halted core -/

/-- A state with a record is the state without it, with the record put back. -/
theorem eq_with_fault {s : State} {r : FaultRecord} (hf : s.fault = some r) : s = { { s with fault := none } with fault := some r } := by
  rw [← hf]

/-- Settles O55: `step` finds no step, `fault()` reads the record, and the other moves neither read nor write it (R270). -/
theorem hostOperationsOnHaltedCore : Obligations.HostOperationsOnHaltedCore := by
  intro s r hf
  have hstep : (HostOp.step.apply s).1 = s := hostStep_of_halted hf
  refine ⟨hstep, congrArg (fun f => (s, HostReply.record f)) hf, fun op => ?_⟩
  cases op with
  | step => exact ⟨by rw [hstep, hf], fun h => absurd rfl h⟩
  | fault => exact ⟨hf, fun _ h => absurd rfl h⟩
  | setKeys | tick | framebuffer | tone | events =>
    refine ⟨hf, fun _ _ => ?_⟩
    rw [eq_with_fault hf]
    rfl

/-! ## The budget and the assembler -/

/-- Settles O58: a maximum of a minimum lies between the two bounds (R266). -/
theorem budgetStaysInRange : Obligations.BudgetStaysInRange := by
  intro b wanted hrange
  have hipf : (b.adjust wanted).ipf = max b.ipfMin (min wanted b.ipfMax) := rfl
  refine ⟨?_, fun hmin hmax => by rw [hipf]; omega⟩
  rw [FrameBudget.wellFormed, hipf, Bool.and_eq_true, decide_eq_true_eq, decide_eq_true_eq]
  exact ⟨Nat.le_max_left _ _, Nat.max_le.2 ⟨hrange, Nat.min_le_right _ _⟩⟩

theorem map_toNat_bytesOfWord (op : Word) : (bytesOfWord op).map BitVec.toNat = [op.toNat / 256, op.toNat % 256] := by
  have hop := op.isLt
  simp only [bytesOfWord, List.map_cons, List.map_nil, BitVec.toNat_ofNat, slice, List.cons.injEq, and_true]
  omega

theorem length_padToEven (a : Nat) : (padToEven a).length = a % 2 := by
  rw [padToEven]
  split <;> simp_all

/-- Settles O59: a line is its padding, of the length that makes the address even, and its opcode; a pseudo-instruction is the line of
its shift with V0 (R101, R102). -/
theorem pseudoInstructionsAssemble : Obligations.PseudoInstructionsAssemble := by
  refine ⟨map_toNat_bytesOfWord, fun a i rest => ⟨padToEven a, ?_, ?_, ?_⟩, fun a x bs rest => ⟨rfl, rfl, ?_, ?_, rfl⟩⟩
  · rw [length_padToEven]
    exact Nat.mod_lt a (by decide)
  · rw [length_padToEven]
    omega
  · rw [length_padToEven, assembleAt]
  · rw [encode, toNat_wordXYN x 0 (by decide) (by decide)]
    omega
  · rw [encode, toNat_wordXYN x 0 (by decide) (by decide)]
    omega

end Sys2Proof.Machine
end
